-- ==== Sys2Proof/Word.lean ====
section
/-! DEFINITION. The word types of the fabric: 64-bit registers, packet and image words (R11, R238), and bytes. -/

namespace Sys2Proof

/-- A 64-bit register, packet word, image word or reply word. -/
abbrev Word := BitVec 64

/-- One byte of a store, a weight plane or fabric memory. -/
abbrev Byte := BitVec 8

end Sys2Proof
end

