-- ==== Sys2Proof/Syntax.lean ====
section
/-! DEFINITION. The commands: one constructor per row of spec/opcode_table.json, in the table's order, each with the
operands that its rule gives the step. -/

namespace Sys2Proof

/-- The two halves and their command processors (R16, R275). -/
inductive Half where
  | west | east
  deriving DecidableEq, Repr, Inhabited

/-- The physical place that a detection names (R331, R334). -/
inductive Place where
  /-- A Col lane or forwarding register: engine, physical row, physical column; `rowParity` for parity on a row element in
  a forwarding register of the row path (R334 case 1). -/
  | colLane (eng row col : Nat) (rowParity : Bool)
  /-- A Basin accumulator: engine, slot, element (R332). -/
  | basin (eng slot elem : Nat)
  /-- A multiplier of a physical plane row of a Plain engine. -/
  | plainMul (eng prow : Nat)
  /-- A physical plane row, parity (R119). -/
  | planeRow (prow : Nat)
  /-- An adder tree of a Plain engine. -/
  | tree (eng : Nat)
  /-- The prologue or epilogue unit, sequencer or Ford logic, by stage group (R305, R334 case 5). -/
  | unit (group : Nat)
  /-- Half B, or A, of the fill buffer (R331, R334 case 5). -/
  | fillHalf (b : Bool)
  /-- A line of the store, by its offset divided by 64 (R331). -/
  | line (n : Nat)
  /-- A word of program memory, chain memory or the Ford table (R331). -/
  | image (word : Nat)
  deriving DecidableEq, Repr, Inhabited

/-- Where a SEC-DED code corrects one bit: a store offset, or a word of program memory, chain memory or the Ford table (R331,
R350). -/
inductive EccPlace where
  | store (off : Nat)
  | image (word : Nat)
  deriving DecidableEq, Repr, Inhabited

/-- Who receives uncorrectable data (R336); a pass, or a REFILL, by its ordinal. `pos` and `elem` name the bad byte or element
in source order, `word` the word of the core's store that was bad, if one was. -/
inductive Receiver where
  | transfer (x : Nat) (pos : Nat)
  | drain (c f elem : Nat) (word : Option Nat)
  | pass (c f : Nat) (word : Option Nat)
  | fill (c : Nat)
  | program (c word : Nat)
  deriving DecidableEq, Repr, Inhabited

/-- What a SEC-DED read of a line finds (R214, R216): `word` is the place of an uncorrectable word in the line. -/
inductive Ecc where
  | clean
  | corrected
  | uncorrectable (word : Nat)
  deriving DecidableEq, Repr, Inhabited

/-- One line of read data: 64 bytes, error flag (R355, R356). -/
structure ReadLine where
  data : BitVec 512
  err : Bool
  deriving DecidableEq, Repr, Inhabited

/-- One measured stage group: domain, group, ring counts, and the weakest physical column where the band was scanned
(R324, R327). -/
structure Measure where
  dom : Nat
  grp : Nat
  np : Nat
  nm : Nat
  col : Nat
  deriving DecidableEq, Repr, Inhabited

/-- Lines of read data that return to a memory port: the tag of their request, the index of the first in it, and the lines (R355). -/
structure ReadReturn where
  tag : Nat
  idx : Nat
  lines : List ReadLine
  deriving DecidableEq, Repr, Inhabited

/-- A read of a slot of the weight plane: a bit of the plane that has flipped before it, by number, and the physical row that it
reports (R119, R120). -/
structure PlaneRead where
  upset : Option Nat
  prow : Nat
  deriving DecidableEq, Repr, Inhabited

/-- A line on the Valley network, by its number: of a transfer in source order, of a read of a fill buffer, of what the
command processor sends or moves itself for a packet, of the oldest reply that a port holds, of the status word of a drain, or of a
re-fill of a plane slot from its record (R337). -/
inductive ValleyLine where
  | transfer (x line : Nat)
  | fill (read line : Nat)
  | packet (pk line : Nat)
  | reply (port : Nat)
  | status (c f : Nat)
  | refill (c slot line : Nat)
  deriving DecidableEq, Repr, Inhabited

/-- A fault in a started instruction: its ordinal, and the place (R85). -/
structure FaultAt where
  flight : Nat
  place : Place
  deriving DecidableEq, Repr, Inhabited

/-- One wrck edge of the wrapper: a data register or the scan chains shift, or are updated, or the instruction register takes a
reserved code, 0x7 to 0xF (R371, R372). -/
inductive WrapOp where
  | shift (wsi : Bool) (wpi : BitVec 64)
  | update
  | reserved (code : BitVec 4)
  deriving DecidableEq, Repr, Inhabited

/-- The commands of the block. Packets and transfers are named by number, cores, ports and domains by their number in the
manual, started instructions by their ordinal on the core. -/
inductive Instr where
  -- Yusumet commands: the submitted packet that the command processor executes
  | nop (pk : Nat)
  | fence (pk : Nat)
  | bind (pk : Nat)
  | release (pk : Nat)
  | saveContext (pk : Nat)
  | restoreContext (pk : Nat)
  | loadProgram (pk : Nat)
  | run (pk : Nat)
  | selectBucket (pk : Nat)
  | move (pk : Nat)
  | fillPages (pk : Nat)
  | stepBegin (pk : Nat)
  | stepCommit (pk : Nat)
  | phaseMark (pk : Nat)
  | queryCaps (pk : Nat)
  | readTimers (pk : Nat)
  | readHealth (pk : Nat)
  | marginSurvey (pk : Nat)
  | setSeed (pk : Nat)
  | writePolicy (pk : Nat)
  | seal (pk : Nat)
  | resetTenant (pk : Nat)
  -- tile instructions: the core whose sequencer starts the instruction at its pc
  | opass (c : Nat)
  | dpass (c : Nat)
  | tpass (c : Nat)
  | pfill (c : Nat)
  | bdrain (c : Nat)
  | spill (c : Nat)
  | refill (c : Nat)
  | xfer (c : Nat)
  | await (c : Nat)
  | arm (c : Nat)
  | chain (c : Nat)
  | pchain (c : Nat)
  | mark (c : Nat)
  | sync (c : Nat)
  | endProgram (c : Nat)
  -- what a core does by itself
  | autoSpill (c : Nat)
  | autoRefill (c : Nat)
  | passRetire (c f : Nat)
  | plainPassRetire (c f : Nat)
  | spillComplete (c f : Nat)
  | slotDrainComplete (c f : Nat)
  | drainStatusWrite (c f : Nat)
  | forwardedMerge (h : Half)
  | derivation (c bank : Nat)
  | secondCrossing (c f : Nat)
  | pageCommit (c : Nat)
  | fillPagesAtBoundary (pk c : Nat)
  | seedLoad (pk c : Nat)
  | fordArrival (x : Nat)
  | reduceOnArrival (x : Nat)
  | deliveryRefusal (x : Nat)
  | programEnding (c : Nat)
  | runCompletion (pk : Nat)
  | selectBucketChunk (pk : Nat)
  -- packets, replies and host-port windows
  | packetDispatch (h : Half)
  | packetUnpark (pk : Nat)
  | replyWrite (p : Nat)
  | hpSubmit (p : Nat) (w : Word) (strb : BitVec 8)
  | hpReplyBase (p : Nat) (w : Word) (strb : BitVec 8)
  | hpReplyTail (p : Nat) (w : Word) (strb : BitVec 8)
  | hpIrqStatus (p : Nat) (w : Word) (strb : BitVec 8)
  /-- Host port p, or the management port where `port` is none. -/
  | registerWrite (port : Option Nat) (off : Nat) (w : Word) (strb : BitVec 8)
  -- faults, repair, scrub
  | passFault (c f : Nat) (pl : Place)
  | faultReplay (c : Nat)
  /-- Pass f of core c reads bad parity, reported at a physical plane row; `upset` names a bit of the plane that has flipped. -/
  | planeParityFault (c f : Nat) (upset : Option Nat) (prow : Nat)
  | epilogueFault (c f : Nat) (pl : Place)
  | defectRepair (c : Nat)
  | reserveCoreBinding (c : Nat)
  | uncorrectableData (r : Receiver)
  | correctedWriteback (c : Nat) (pl : EccPlace)
  | storeLineRemap (c line : Nat)
  | storeScrub (c : Nat) (e : Ecc)
  | planeScrub (c : Nat) (r : PlaneRead)
  | valleyLineRetry (l : ValleyLine)
  -- memory ports
  | mpReadResponse (q : Nat) (r : ReadReturn)
  | mpWriteCompletion (q n : Nat)
  | mpFatal (q : Nat)
  -- the two halves
  | heartbeatSend (h : Half)
  | heartbeatReceive (h : Half)
  | silenceTimeout (h : Half)
  | otherSideOff (h : Half)
  | saddleOrder (h : Half)
  | tenantStateRequest (h : Half)
  | tenantStateAnswer (h : Half)
  | tenantStateCopy (h : Half)
  | portTakeback (p : Nat)
  | coreTakeback (c : Nat)
  -- power, sleep, the always-on domain, surveys
  | controlWindow (watts : Nat)
  | vcoreAck
  | sensorSample (codes : List Nat)
  | domainTransition (d : Nat)
  | pwrSleepReq (level : Bool)
  | sleepEntry
  | memSleepAck (g : Nat) (level : Bool)
  | wake
  | aonTimeTick
  | timeComparator
  | hostWake (level : Bool)
  | ageingComparator
  | measurementRound (ms : List Measure)
  | tapChange (d : Nat)
  | aonAlarm (w : Word) (strb : BitVec 8)
  | aonWake (w : Word) (strb : BitVec 8)
  | aonRef (w : Word) (strb : BitVec 8)
  | pwrCeiling (w : Word) (strb : BitVec 8)
  -- fuses and the repair log
  | fuseProgram (w : Word) (strb : BitVec 8)
  | fuseVoid (w : Word) (strb : BitVec 8)
  | fuseReload (w : Word) (strb : BitVec 8)
  | vppAck (level : Bool)
  | fuseBurnTimer
  | repairLogClear (w : Word) (strb : BitVec 8)
  -- resets and boot
  | aonPor
  | blkRst (low : Bool)
  | cpReset (h : Half) (low : Bool)
  | hpRst (p : Nat)
  | fuseRead
  | init
  -- test wrapper
  | wsBypass
  | wsExtest
  | wsIntest
  | wsScan
  | wsMbist
  | wsFuseRd
  | wsSensor
  | wrstn
  | capturePulse
  -- further completions
  | refillComplete (c f : Nat)
  | spillPathFault (c : Nat) (e : FaultAt)
  | transferLanding (x : Nat)
  | saddleOrderCompletion (h : Half)
  | mirrorUpdate (h : Half)
  | phaseOpen
  | fuseReloadComplete
  | vddCoreOutOfRange
  | wrapperShift (op : WrapOp)
  deriving DecidableEq, Repr

end Sys2Proof
end

