-- ==== Sys2Proof/Machine/Flags.lean ====
section
/-! DEFINITION. Exact values, exception flags, rounding and the conversions of chapter 02 (R29 to R64), and the
element operations every engine and chain stage is built on. -/

namespace Sys2Proof.Machine

/-- An exactly held value, by the classes of R46: a finite non-zero value is (-1)^neg * m * 2^e. -/
inductive FV where
  | nan (sig : Bool)
  | inf (neg : Bool)
  | zero (neg : Bool)
  | fin (neg : Bool) (m : Nat) (e : Int)
  deriving DecidableEq, Repr, Inhabited

/-- The four exception flags of R54. -/
structure Flags where
  invalid : Bool := false
  overflow : Bool := false
  underflow : Bool := false
  inexact : Bool := false
  deriving DecidableEq, Repr, Inhabited

/-- Flags accumulate by OR (R54). -/
def Flags.or (a b : Flags) : Flags :=
  ⟨a.invalid || b.invalid, a.overflow || b.overflow, a.underflow || b.underflow, a.inexact || b.inexact⟩

/-- The 4-bit field of Table — Exception flags (R54). -/
def Flags.code (f : Flags) : Nat :=
  f.invalid.toNat + 2 * f.overflow.toNat + 4 * f.underflow.toNat + 8 * f.inexact.toNat

/-- The flags a 4-bit field spells. -/
def Flags.ofCode (n : Nat) : Flags := ⟨n.testBit 0, n.testBit 1, n.testBit 2, n.testBit 3⟩

def Flags.none : Flags := {}
def Flags.inv : Flags := { invalid := true }

/-- Rounding codes (R30). Code 11 is reserved and has no constructor. -/
inductive Rnd where
  | rne | rz | stoch
  deriving DecidableEq, Repr, Inhabited

/-- Format codes (R29). -/
inductive Fmt where
  | df8 | e4m3 | e5m2 | df16 | b16 | b32 | b64 | int8 | uint8 | int16 | int32 | dq4 | dx16
  deriving DecidableEq, Repr, Inhabited

/-- What fixes a floating format (Table — Format limits, R44, and the bit maps of R35 to R39): precision, exponent of the
smallest normal, largest finite value maxM * 2^maxE, width in bits, infinity, NaN code, negative zero, always flushing. -/
structure FloatSpec where
  p : Nat
  emin : Int
  bias : Int
  maxM : Nat
  maxE : Int
  width : Nat
  hasInf : Bool
  nanCode : Nat
  negZero : Bool
  short : Bool
  deriving DecidableEq, Repr

def specDf8 : FloatSpec := ⟨4, -7, 8, 15, 4, 8, false, 0x80, false, true⟩
def specE4m3 : FloatSpec := ⟨4, -6, 7, 14, 5, 8, false, 0x7F, true, true⟩
def specE5m2 : FloatSpec := ⟨3, -14, 15, 7, 13, 8, true, 0x7E, true, true⟩
def specDf16 : FloatSpec := ⟨9, -62, 63, 511, 56, 16, false, 0x8000, false, true⟩
def specB16 : FloatSpec := ⟨11, -14, 15, 2047, 5, 16, true, 0x7E00, true, false⟩
def specB32 : FloatSpec := ⟨24, -126, 127, 0xFFFFFF, 104, 32, true, 0x7FC00000, true, false⟩
def specB64 : FloatSpec := ⟨53, -1022, 1023, 0x1FFFFFFFFFFFFF, 971, 64, true, 0x7FF8000000000000, true, false⟩

def Fmt.float? : Fmt → Option FloatSpec
  | .df8 => some specDf8
  | .e4m3 => some specE4m3
  | .e5m2 => some specE5m2
  | .df16 => some specDf16
  | .b16 => some specB16
  | .b32 => some specB32
  | .b64 => some specB64
  | _ => none

/-- Least and greatest value of an integer format (R40). -/
def Fmt.intRange? : Fmt → Option (Int × Int)
  | .int8 => some (-128, 127)
  | .uint8 => some (0, 255)
  | .int16 => some (-32768, 32767)
  | .int32 => some (-2147483648, 2147483647)
  | _ => none

/-- Bits per element (R29); a DQ4 or DX16 element without its block byte. -/
def Fmt.bits : Fmt → Nat
  | .df8 | .e4m3 | .e5m2 | .int8 | .uint8 => 8
  | .df16 | .b16 | .int16 | .dx16 => 16
  | .b32 | .int32 => 32
  | .b64 => 64
  | .dq4 => 4

/-- Bytes per element; 1 for DQ4, which packs two to a byte and is never addressed by this width. -/
def Fmt.bytes (f : Fmt) : Nat := max 1 (f.bits / 8)

/-- The format a 4-bit code names; 0xD to 0xF are reserved (R12, R29). -/
def Fmt.ofCode : Nat → Option Fmt
  | 0 => some .df8 | 1 => some .e4m3 | 2 => some .e5m2 | 3 => some .df16 | 4 => some .b16 | 5 => some .b32
  | 6 => some .b64 | 7 => some .int8 | 8 => some .uint8 | 9 => some .int16 | 10 => some .int32 | 11 => some .dq4
  | 12 => some .dx16 | _ => none

def Rnd.ofCode : Nat → Option Rnd
  | 0 => some .rne | 1 => some .rz | 2 => some .stoch | _ => none

/-- Compare m1 * 2^e1 with m2 * 2^e2. -/
def magLt (m1 : Nat) (e1 : Int) (m2 : Nat) (e2 : Int) : Bool :=
  if e1 ≤ e2 then decide (m1 < m2 <<< (e2 - e1).toNat) else decide (m1 <<< (e1 - e2).toNat < m2)

def magEq (m1 : Nat) (e1 : Int) (m2 : Nat) (e2 : Int) : Bool :=
  if e1 ≤ e2 then m1 == m2 <<< (e2 - e1).toNat else m1 <<< (e1 - e2).toNat == m2

/-- ROUND of R50: the number n of quanta 2^q that m * 2^e rounds to, with the draw of R55. -/
def roundQuanta (m : Nat) (e q : Int) (rnd : Rnd) (draw : Nat) : Nat :=
  if q ≤ e then m <<< (e - q).toNat
  else
    let sh := (q - e).toNat
    let n := m >>> sh
    let rem := m - n <<< sh
    match rnd with
    | .rne => if 2 * rem > 1 <<< sh || (2 * rem == 1 <<< sh && n % 2 == 1) then n + 1 else n
    | .rz => n
    | .stoch => if (rem * 65536) >>> sh + draw ≥ 65536 then n + 1 else n

/-- The code of a sign and a representable magnitude n * 2^q (ENCODE of R50; n = 0 is the zero). -/
def encodeFloat (F : FloatSpec) (neg : Bool) (n : Nat) (q : Int) : Nat :=
  let s := if neg then 1 <<< (F.width - 1) else 0
  if n == 0 then (if F.negZero then s else 0)
  else
    let fb := F.p - 1
    let e' : Int := n.log2 + q
    if F.emin ≤ e' then
      let sig := if (fb : Int) ≤ e' - q then n >>> ((e' - q) - fb).toNat else n <<< (fb - (e' - q)).toNat
      s + ((e' + F.bias).toNat <<< fb) + (sig - 1 <<< fb)
    else
      let lo := F.emin - fb
      s + (if lo ≤ q then n <<< (q - lo).toNat else n >>> (lo - q).toNat)

def codeMax (F : FloatSpec) (neg : Bool) : Nat := encodeFloat F neg F.maxM F.maxE

def codeInf (F : FloatSpec) (neg : Bool) : Nat :=
  (if neg then 1 <<< (F.width - 1) else 0) + ((1 <<< (F.width - F.p)) - 1) <<< (F.p - 1)

/-- CONVERT_FLOAT of R50: the code and the flags. `sat` is overflow code 0. -/
def convertFloat (F : FloatSpec) (rnd : Rnd) (sat fl : Bool) (draw : Nat) : FV → Nat × Flags
  | .nan sig => (F.nanCode, { invalid := sig })
  | .inf neg =>
    if F.hasInf then (codeInf F neg, {})
    else (if sat then codeMax F neg else F.nanCode, { overflow := true })
  | .zero neg => (encodeFloat F neg 0 0, {})
  | .fin neg m e =>
    let flushes := F.short || fl
    let e0 : Int := m.log2 + e
    let e1 := if flushes then e0 else max e0 F.emin
    let q := e1 - F.p + 1
    let n := roundQuanta m e q rnd draw
    let exact := magEq n q m e
    if magLt F.maxM F.maxE n q then
      (if sat then codeMax F neg
       else if F.hasInf && rnd == .rz then codeMax F neg
       else if F.hasInf then codeInf F neg else F.nanCode,
       { overflow := true, inexact := true })
    else if flushes && magLt n q 1 F.emin then
      (encodeFloat F neg 0 0, { underflow := true, inexact := true })
    else
      (encodeFloat F neg n q,
       { inexact := !exact, underflow := !flushes && magLt m e 1 F.emin && !exact })

/-- The two's-complement code of an integer in w bits. -/
def intCode (w : Nat) (k : Int) : Nat := (k % (2 ^ w : Nat)).toNat

/-- CONVERT_INT of R52: the code and the flags. -/
def convertInt (lo hi : Int) (w : Nat) (rnd : Rnd) (sat : Bool) (draw : Nat) : FV → Nat × Flags
  | .nan _ => (0, { invalid := true })
  | .inf neg => (intCode w (if neg then lo else hi), { invalid := true })
  | .zero _ => (0, {})
  | .fin neg m e =>
    let y := roundQuanta m e 0 rnd draw
    let inexact := !magEq y 0 m e
    let k : Int := if neg then -(y : Int) else y
    if hi < k || k < lo then
      (if sat then intCode w (if 0 < k then hi else lo) else intCode w k, { overflow := true, inexact := inexact })
    else (intCode w k, { inexact := inexact })

/-- Read a floating code (R35 to R39); short formats flush their subnormals and `fl` flushes the long ones (R32, R38). -/
def decodeFloat (f : Fmt) (F : FloatSpec) (fl : Bool) (c : Nat) : FV :=
  let neg := c.testBit (F.width - 1)
  let fb := F.p - 1
  let ef := (c >>> fb) % 1 <<< (F.width - F.p)
  let fr := c % 1 <<< fb
  let top := 1 <<< (F.width - F.p) - 1
  match f with
  | .df8 | .df16 =>
    if c % 1 <<< F.width == F.nanCode then .nan false
    else if ef == 0 then .zero false
    else .fin neg (1 <<< fb + fr) ((ef : Int) - F.bias - fb)
  | .e4m3 =>
    if ef == top && fr == 7 then .nan false
    else if ef == 0 then .zero neg
    else .fin neg (1 <<< fb + fr) ((ef : Int) - F.bias - fb)
  | _ =>
    if ef == top then (if fr == 0 then .inf neg else .nan (!fr.testBit (fb - 1)))
    else if ef == 0 then
      (if fr == 0 || F.short || fl then .zero neg else .fin neg fr (F.emin - fb))
    else .fin neg (1 <<< fb + fr) ((ef : Int) - F.bias - fb)

/-- An integer as an exact value. -/
def FV.ofInt (k : Int) : FV :=
  if k = 0 then .zero false else .fin (decide (k < 0)) k.natAbs 0

/-- The signed value of a w-bit two's-complement code. -/
def signedOf (w c : Nat) : Int :=
  let c := c % 2 ^ w
  if c.testBit (w - 1) then (c : Int) - (2 ^ w : Nat) else c

/-- A block element: significand times 2^e (R41, R42). -/
def blockValue (k : Int) (e : Int) : FV :=
  if k = 0 then .zero false else .fin (decide (k < 0)) k.natAbs e

/-- Read one element code in a format; block formats need their block byte `blk` (R41, R42). -/
def decodeElem (f : Fmt) (fl : Bool) (blk c : Nat) : FV :=
  match f.float? with
  | some F => decodeFloat f F fl c
  | none =>
    match f with
    | .uint8 => .ofInt (c % 256 : Nat)
    | .dq4 => blockValue (signedOf 4 c) ((blk : Int) - 131)
    | .dx16 => if c % 65536 == 0x8000 then .nan false else blockValue (signedOf 16 c) ((blk : Int) - 142)
    | f => .ofInt (signedOf f.bits c)

/-- The conversion of R50 or R52 into a format that has no block byte. -/
def convert (f : Fmt) (rnd : Rnd) (sat fl : Bool) (draw : Nat) (v : FV) : Nat × Flags :=
  match f.float? with
  | some F => convertFloat F rnd sat fl draw v
  | none =>
    match f.intRange? with
    | some (lo, hi) => convertInt lo hi f.bits rnd sat draw v
    | none => (0, {})

/-! ### Exact operations -/

def FV.isNan : FV → Bool
  | .nan _ => true
  | _ => false

def FV.isInf : FV → Bool
  | .inf _ => true
  | _ => false

def FV.sig : FV → Bool
  | .nan s => s
  | _ => false

def FV.neg : FV → FV
  | .nan s => .nan s
  | .inf n => .inf (!n)
  | .zero n => .zero (!n)
  | .fin n m e => .fin (!n) m e

def FV.isNeg : FV → Bool
  | .nan _ => false
  | .inf n => n
  | .zero n => n
  | .fin n _ _ => n

def FV.abs : FV → FV
  | .nan s => .nan s
  | .inf _ => .inf false
  | .zero _ => .zero false
  | .fin _ m e => .fin false m e

/-- An exact sum of two signed magnitudes; a zero sum of non-zero terms is +0 (RNE and RZ, IEEE 754-2019). -/
def sumFin (n1 : Bool) (m1 : Nat) (e1 : Int) (n2 : Bool) (m2 : Nat) (e2 : Int) : FV :=
  let e := min e1 e2
  let a : Int := (m1 <<< (e1 - e).toNat : Nat)
  let b : Int := (m2 <<< (e2 - e).toNat : Nat)
  let s := (if n1 then -a else a) + (if n2 then -b else b)
  if s = 0 then .zero false else .fin (decide (s < 0)) s.natAbs e

/-- Exact addition of R70 and R71: the sum, and whether the operation is invalid. -/
def addExact : FV → FV → FV × Bool
  | .nan a, y => (.nan false, a || y.sig)
  | x, .nan b => (.nan false, x.sig || b)
  | .inf a, .inf b => if a == b then (.inf a, false) else (.nan false, true)
  | .inf a, _ => (.inf a, false)
  | _, .inf b => (.inf b, false)
  | .zero a, .zero b => (.zero (a && b), false)
  | .zero _, y => (y, false)
  | x, .zero _ => (x, false)
  | .fin a m e, .fin b m' e' => (sumFin a m e b m' e', false)

/-- Exact product by Table — Narrow lane products of special operands (R71): the product, and whether it is invalid. -/
def mulExact : FV → FV → FV × Bool
  | .nan a, y => (.nan false, a || y.sig)
  | x, .nan b => (.nan false, x.sig || b)
  | .inf _, .zero _ => (.nan false, true)
  | .zero _, .inf _ => (.nan false, true)
  | .inf a, y => (.inf (xor a y.isNeg), false)
  | x, .inf b => (.inf (xor x.isNeg b), false)
  | .zero a, y => (.zero (xor a y.isNeg), false)
  | x, .zero b => (.zero (xor x.isNeg b), false)
  | .fin a m e, .fin b m' e' => (.fin (xor a b) (m * m') (e + e'), false)

/-- Value order on non-NaN values: is a < b. -/
def FV.lt : FV → FV → Bool
  | .nan _, _ => false
  | _, .nan _ => false
  | .inf a, .inf b => a && !b
  | .inf a, _ => a
  | _, .inf b => !b
  | .zero _, .zero _ => false
  | .zero _, .fin b _ _ => !b
  | .fin a _ _, .zero _ => a
  | .fin a m e, .fin b m' e' =>
    if a && !b then true else if !a && b then false
    else if a then magLt m' e' m e else magLt m e m' e'

/-- MAX of R170: NaN if either is, the larger otherwise, +0 above -0. -/
def maxFV (a b : FV) : FV :=
  if a.isNan || b.isNan then .nan false
  else if a.lt b then b
  else if b.lt a then a
  else match a with
    | .zero true => b
    | _ => a

/-- How a result is rounded into a working format: rounding, overflow and flush codes (R30 to R32). -/
structure RMode where
  rnd : Rnd := .rne
  sat : Bool := false
  fl : Bool := false
  deriving DecidableEq, Repr, Inhabited

/-- Round an exact value into a float format and read it back; flags of the conversion. -/
def roundInto (f : Fmt) (md : RMode) (draw : Nat) (v : FV) : FV × Flags :=
  let r := convert f md.rnd md.sat md.fl draw v
  (decodeElem f false 0 r.1, r.2)

/-- A subnormal input of a long format read as zero of its sign under flush_long (R32). -/
def flushIn (f : Fmt) (fl : Bool) (v : FV) : FV :=
  match fl, f.float?, v with
  | true, some F, .fin n m e => if magLt m e 1 F.emin then .zero n else .fin n m e
  | _, _, v => v

/-- One rounded addition in format f: flags include the invalid operation. -/
def fadd (f : Fmt) (md : RMode) (a b : FV) : FV × Flags :=
  let s := addExact (flushIn f md.fl a) (flushIn f md.fl b)
  let r := roundInto f md 0 s.1
  (r.1, { r.2 with invalid := r.2.invalid || s.2 })

/-- One rounded multiplication in format f. -/
def fmul (f : Fmt) (md : RMode) (a b : FV) : FV × Flags :=
  let s := mulExact (flushIn f md.fl a) (flushIn f md.fl b)
  let r := roundInto f md 0 s.1
  (r.1, { r.2 with invalid := r.2.invalid || s.2 })

/-- IEEE division under RNE, binary32 (R166, R168): a quotient of 64 bits and more with a sticky bit below rounds as the
exact quotient does. The flag set has no division-by-zero flag: a finite value over zero raises overflow (R168). -/
def fdiv (a b : FV) : FV × Flags :=
  match a, b with
  | .nan s, y => (.nan false, { invalid := s || y.sig })
  | x, .nan s => (.nan false, { invalid := x.sig || s })
  | .inf _, .inf _ => (.nan false, .inv)
  | .zero _, .zero _ => (.nan false, .inv)
  | .inf n, y => (.inf (xor n y.isNeg), {})
  | x, .inf n => (.zero (xor x.isNeg n), {})
  | .zero n, y => (.zero (xor n y.isNeg), {})
  | .fin n _ _, .zero n' => (.inf (xor n n'), { overflow := true })
  | .fin n m e, .fin n' m' e' =>
    let k := 64 + m'.log2
    let q := (m <<< k) / m'
    let st := if (m <<< k) % m' == 0 then 0 else 1
    roundInto .b32 {} 0 (.fin (xor n n') (2 * q + st) (e - e' - k - 1))

/-- Bitwise integer square root: the largest r below 2^fuel more than `r` with square at most n. -/
def isqrtFrom : Nat → Nat → Nat → Nat
  | 0, _, r => r
  | k + 1, n, r => isqrtFrom k n (if (r + 1 <<< k) * (r + 1 <<< k) ≤ n then r + 1 <<< k else r)

/-- The IEEE square root under RNE in binary32 (R174). -/
def fsqrt : FV → FV × Flags
  | .nan s => (.nan false, { invalid := s })
  | .zero n => (.zero n, {})
  | .inf false => (.inf false, {})
  | .inf true => (.nan false, .inv)
  | .fin true _ _ => (.nan false, .inv)
  | .fin false m e =>
    let odd := (e % 2).toNat
    let a := m <<< (odd + 96)
    let r := isqrtFrom (a.log2 / 2 + 1) a 0
    let st := if r * r == a then 0 else 1
    roundInto .b32 {} 0 (.fin false (2 * r + st) ((e - odd - 96) / 2 - 1))

/-- The value of a binary32 code. -/
def b32 (c : Nat) : FV := decodeElem .b32 false 0 c

/-- The binary32 code of a value already representable in binary32. -/
def toB32 (v : FV) : Nat := (convert .b32 .rne false false 0 v).1

/-- The binary64 code of a value already representable in binary64. -/
def toB64 (v : FV) : Nat := (convert .b64 .rne false false 0 v).1

end Sys2Proof.Machine
end

