-- ==== Sys2Proof/Machine/Tab.lean ====
section
/-! DEFINITION. Sparse tables in one canonical form: keys strictly rising, no entry equal to what an unlisted key reads as.
Stores, planes, fabric memory, accumulator rows, statistic banks and the fuse map are tables. -/

namespace Sys2Proof.Machine

/-- A sparse table. -/
abbrev Tab (α : Type) := List (Nat × α)

variable {α : Type}

/-- What key k reads as; d is what an unlisted key reads as. -/
def Tab.get (d : α) : Tab α → Nat → α
  | [], _ => d
  | (k, v) :: t, i => if i = k then v else Tab.get d t i

/-- Put v at key i in a rising table, whatever v is. -/
def Tab.insert : Tab α → Nat → α → Tab α
  | [], i, v => [(i, v)]
  | (k, w) :: t, i, v =>
    if i < k then (i, v) :: (k, w) :: t
    else if i = k then (i, v) :: t
    else (k, w) :: Tab.insert t i v

/-- Take key i out. -/
def Tab.erase : Tab α → Nat → Tab α
  | [], _ => []
  | (k, w) :: t, i => if i = k then t else (k, w) :: Tab.erase t i

/-- Write v at key i: writing what an unlisted key reads as removes the entry, so equal tables are equal data. -/
def Tab.set [DecidableEq α] (d : α) (t : Tab α) (i : Nat) (v : α) : Tab α :=
  if v = d then t.erase i else t.insert i v

/-- The canonical form. -/
def Tab.wf [DecidableEq α] (d : α) : Tab α → Bool
  | [] => true
  | [(_, v)] => decide (v ≠ d)
  | (k, v) :: (k', w) :: t => decide (v ≠ d) && decide (k < k') && Tab.wf d ((k', w) :: t)

/-- Write a list of (key, value) pairs, first to last. -/
def Tab.setAll [DecidableEq α] (d : α) (t : Tab α) (ws : List (Nat × α)) : Tab α :=
  ws.foldl (fun acc p => Tab.set d acc p.1 p.2) t

/-- Any list of entries brought into canonical form. -/
def Tab.canon [DecidableEq α] (d : α) (t : List (Nat × α)) : Tab α := Tab.setAll d [] t

/-! ### Byte memories -/

/-- A byte memory: fabric memory, a store or a weight plane. Unlisted bytes read 0 (log entry 6). -/
abbrev Mem := List (Nat × Byte)

def Mem.rd (m : Mem) (a : Nat) : Byte := Tab.get (0 : Byte) m a
def Mem.wr (m : Mem) (a : Nat) (b : Byte) : Mem := Tab.set (0 : Byte) m a b
def Mem.wrAll (m : Mem) (ws : List (Nat × Byte)) : Mem := Tab.setAll (0 : Byte) m ws
def Mem.wf (m : Mem) : Bool := Tab.wf (0 : Byte) m

/-- n bytes from a, as the little-endian number they spell (R11). -/
def Mem.num (m : Mem) (a : Nat) : Nat → Nat
  | 0 => 0
  | n + 1 => (m.rd a).toNat + 256 * Mem.num m (a + 1) n

/-- The 64-bit word at a (R11). -/
def Mem.word (m : Mem) (a : Nat) : Word := BitVec.ofNat 64 (m.num a 8)

/-- The n bytes of a number, lowest first, at addresses from a (R11). -/
def numBytes (a : Nat) : Nat → Nat → List (Nat × Byte)
  | 0, _ => []
  | n + 1, v => (a, BitVec.ofNat 8 v) :: numBytes (a + 1) n (v / 256)

/-- The bytes of consecutive 64-bit words from a. -/
def wordBytes (a : Nat) : List Word → List (Nat × Byte)
  | [] => []
  | w :: ws => numBytes a 8 w.toNat ++ wordBytes (a + 8) ws

/-- n consecutive words from a. -/
def Mem.words (m : Mem) (a : Nat) : Nat → List Word
  | 0 => []
  | n + 1 => m.word a :: Mem.words m (a + 8) n

/-- Every byte of n from a set to zero. -/
def Mem.clear (m : Mem) (a n : Nat) : Mem := m.filter fun b => decide (b.1 < a) || decide (a + n ≤ b.1)


end Sys2Proof.Machine
end

