-- ==== Sys2Proof/Machine/State.lean ====
section
/-! DEFINITION. The state of the block as plain data: the always-on domain, the host-port windows, every other domain, the
fabric memory its ports reach, and the queue of waiting commands. INVENTORY.md names the rule and the reset value of each
field. -/

namespace Sys2Proof.Machine

/-- The three configurations (Table — Configurations). -/
inductive Configuration where
  | mbf64 | mbf32 | mbf16
  deriving DecidableEq, Repr, Inhabited

/-- Boot phases (R365). `ready` is phase INIT once its work is done. -/
inductive Phase where
  | reset | fuseRead | init | ready | opened | sealed | scanLock
  deriving DecidableEq, Repr, Inhabited

/-- Roles of a command processor (R278). -/
inductive Role where
  | off | follower | claiming | lead
  deriving DecidableEq, Repr, Inhabited

/-- The resting states of a power domain (R311). -/
inductive Rest where
  | off | retain | on
  deriving DecidableEq, Repr, Inhabited

/-- State of a power domain: at rest, or changing towards a rest that it reaches at the named always-on time (R311). -/
inductive Dom where
  | still (r : Rest)
  | changing (goal : Rest) (due : Nat)
  deriving DecidableEq, Repr, Inhabited

/-- Where the sleep sequence stands (R318, R320). -/
inductive Sleep where
  | awake | entering | asleep | waking (since : Nat)
  deriving DecidableEq, Repr, Inhabited

/-- Where a fuse operation stands (R347, R359). -/
inductive FuseOp where
  | idle
  | waitHigh (void : Bool)
  | burning (void : Bool) (since : Nat)
  | waitLow (result : BitVec 2)
  | reload
  deriving DecidableEq, Repr, Inhabited

/-- Wrapper instructions (R371). -/
inductive Wir where
  | bypass | extest | intest | scan | mbist | fuseRd | sensor
  /-- A code from 0x7 to 0xF, which acts as WS_BYPASS. -/
  | reserved (code : BitVec 4)
  deriving DecidableEq, Repr, Inhabited

/-- Inputs the integrator drives: straps, resets, sleep and wake levels (R351, R360 to R362). -/
structure Pins where
  clamps : BitVec 16
  bootPort : BitVec 3
  blkRstLow : Bool
  cpwLow : Bool
  cpeLow : Bool
  sleepReq : Bool
  hostWake : Bool
  vppAck : Bool
  memSleepAck : List Bool
  /-- The levels of mp<q>_fatal (R356). -/
  memFatal : List Bool
  deriving DecidableEq, Repr, Inhabited

/-- The power manager and supply request (R309, R313 to R317). -/
structure Power where
  tjLimit : BitVec 10
  vmax : BitVec 7
  ceiling : BitVec 16
  vreq : BitVec 7
  floor : BitVec 7
  gate : BitVec 4
  est : BitVec 16
  hotCode : BitVec 10
  hotSite : BitVec 6
  limit : BitVec 2
  trip : Bool
  /-- A supply request that vcore_ack has not answered (R309). -/
  request : Bool
  /-- The last windows, newest first, at most 8: whether each had P < 0.97 of the ceiling (R314). -/
  calm : List Bool
  windowAt : Nat
  deriving DecidableEq, Repr, Inhabited

/-- Fuse array, its programming registers and the repair log (R344 to R347). -/
structure Fuses where
  /-- The 1,280 records of FUSE_MAP; unlisted records read empty. -/
  recs : Tab Word
  prog : Word
  result : BitVec 2
  badRecs : BitVec 8
  op : BitVec 2
  slot : BitVec 8
  state : FuseOp
  vppReq : Bool
  log : List Word
  overflow : Bool
  deriving DecidableEq, Repr, Inhabited

/-- The test wrapper (R371). -/
structure Wrapper where
  wir : Wir
  wby : Bool
  /-- Boundary register, and the values it last drove under update. -/
  wbr : List Bool
  driven : List Bool
  /-- Bits shifted out of the selected read-only register since it was loaded. -/
  pos : Nat
  wso : Bool
  wpo : BitVec 64
  /-- What has been shifted into the scan chains since they last captured, newest first, one bit of each chain a word; their
  contents before it are free values from `base` on (R372). -/
  chain : List (BitVec 64)
  base : Nat
  deriving DecidableEq, Repr, Inhabited

/-- What the output groups drove when isolation last engaged on them (R362): interrupt lines of the host ports, the power group,
the always-on outputs, and for the other signals of a group, by its number, the free value that they were. -/
structure Held where
  irq : List Bool
  vcore : BitVec 7
  vcoreReq : Bool
  vppReq : Bool
  sleepAck : Bool
  memSleep : List Bool
  wakeIrq : Bool
  trip : Bool
  data : List (Nat × Nat)
  wpo : BitVec 64
  deriving DecidableEq, Repr, Inhabited

/-- The always-on domain (R321, R351, R360). -/
structure Aon where
  phase : Phase
  testRefused : Bool
  strapErr : Bool
  bootPort : BitVec 3
  clamps : BitVec 16
  caps0 : Word
  caps1 : Word
  sealed : Bool
  leadHalf : Bool
  policyCrc : BitVec 32
  /-- The 113 value words in ascending index order (R260, R263). -/
  policy : List Word
  epochW : BitVec 16
  epochE : BitVec 16
  roleW : Role
  roleE : Role
  saddleUp : Bool
  time : BitVec 56
  refKhz : BitVec 17
  armed : Bool
  alarm : BitVec 56
  therm : BitVec 10
  thermArmed : Bool
  busy : BitVec 40
  surveyAt : BitVec 56
  cause : BitVec 4
  wakeEn : BitVec 4
  /-- Causes that have fired in the present tick, and whether AON_ALARM has been written in it (R323). -/
  firedNow : BitVec 4
  armedNow : Bool
  /-- An enabled comparator has fired since the block fell asleep (R320). -/
  wakeHit : Bool
  asleep : Bool
  sleep : Sleep
  power : Power
  doms : List Dom
  sensors : List Nat
  sampledAt : Nat
  fuses : Fuses
  /-- The active ports of the interleave list A, and the ports withdrawn (R234, R235). -/
  listA : List Nat
  withdrawn : List Nat
  wrap : Wrapper
  held : Held
  /-- The automatic survey that the ageing comparator has asked for and that has not started (R329). -/
  surveyDue : Bool
  deriving DecidableEq, Repr, Inhabited

/-- A host-port window (R238 to R245). -/
structure HostPort where
  asm : List Word
  /-- Words awaited by the packet under assembly; 0 when none is. -/
  asmLen : Nat
  credits : Nat
  base : BitVec 36
  en : Bool
  size : BitVec 4
  head : BitVec 16
  tail : BitVec 16
  /-- HP_IRQ_STATUS but for bit 5, which mirrors the assembly. -/
  irq : BitVec 7
  mask : BitVec 7
  cpHalf : Half
  /-- Writes that the host holds at an isolated port, oldest first: offset, data, byte enables (R364). -/
  stall : List (Nat × Word × BitVec 8)
  deriving DecidableEq, Repr, Inhabited

/-- A tile instruction: its four words (R185). -/
structure TI where
  w0 : Word
  w1 : Word
  w2 : Word
  w3 : Word
  deriving DecidableEq, Repr, Inhabited

/-- Basin slot states (R85). -/
inductive SlotSt where
  | empty | acc | draining | dirty
  deriving DecidableEq, Repr, Inhabited

/-- Accumulator kinds, coded 00 to 11 (R87). -/
inductive AccKind where
  | f32 | i32 | dwf | dwi
  deriving DecidableEq, Repr, Inhabited

/-- A pass to be replayed: its ordinal, its instruction, the prologue lists it latched, and for a Plain pass its batch size, its
vectors (index in the dwell, base of the Ford they lie in, index there) and the records of the slots that it read; and whether
store bytes that it reads have been written since it started (R90, R102, R117, R121, R148, R190). -/
structure PassRec where
  id : Nat
  ti : TI
  lists : List (Option Nat)
  b : Nat
  vecs : List (Nat × Nat × Nat)
  recs : List (Nat × Word × Word)
  changed : Bool
  deriving DecidableEq, Repr, Inhabited

/-- One Basin slot (R83 to R87). `acc` holds the m_ext x n_ext accumulators row by row, each in its kind's code. -/
structure Slot where
  st : SlotSt
  /-- Logical engine and tag of the tile (R84, R210). -/
  eng : Nat
  tag : Nat
  mExt : Nat
  nExt : Nat
  kind : AccKind
  sat : Bool
  kDone : Nat
  exc : Word
  cap : Word
  acc : List Nat
  used : Nat
  /-- What the REFILL that last loaded the tag set, if that is its origin: k_done, exception words, accumulators (R90). -/
  org : Option (Nat × Word × Word × List Nat)
  /-- Offset of the record that the REFILL loaded, and whether bytes of it have been written since (R90). -/
  src : Option Nat
  stale : Bool
  passes : List PassRec
  deriving DecidableEq, Repr, Inhabited

/-- A guest vector in a live row set: its index, its tenant and its return descriptor (R117). -/
structure Guest where
  vec : Nat
  tenant : Nat
  core : Nat
  ford : Nat
  off : Nat
  fmt : Fmt
  deriving DecidableEq, Repr, Inhabited

/-- A live Plain row set: column rows or row-tree rows from `row` (R110, R112). -/
structure RowSet where
  tree : Bool
  row : Nat
  vecMax : Nat
  int : Bool
  sat : Bool
  b : Nat
  kLim : Nat
  nLim : Nat
  draining : Bool
  dirty : Bool
  ksum : Nat
  passes : List PassRec
  guests : List Guest
  /-- What a RESTORE_CONTEXT set the rows to, if the set was restored: row codes in order, exception states, and the reduction
  extents added before it (R145). -/
  org : Option (List Nat × List (Word × Word) × Nat)
  deriving DecidableEq, Repr, Inhabited

/-- One page being filled (R100, R201), under a number of its own: a PFILL in flight, or a page of FILL_PAGES packet `pk`. -/
structure Fill where
  id : Nat
  src : Nat
  cls : Nat
  page : Nat
  flight : Option Nat
  pk : Option Nat
  image : Option (BitVec 16)
  /-- Parts whose staging has begun, and parts committed; a 4-byte page has two, any other one (R201). -/
  begun : Nat
  parts : Nat
  restaged : Bool
  deriving DecidableEq, Repr, Inhabited

/-- A half of the fill buffer, 64 KiB, in use (R100): the fill and the part that it stages, the number of its read, and, once
its last byte has landed, the bytes that are not zero at offsets from the part's start; whether they hold uncorrectable data; and the
retries of its lines, by line within the part (R337). -/
structure Staged where
  fill : Nat
  part : Nat
  reads : Nat
  data : Option (List (Nat × Byte))
  bad : Bool
  retries : List (Nat × Nat)
  deriving DecidableEq, Repr, Inhabited

/-- A Plain core's own state (R97 to R121). Column rows 0 to 3 are keyed 256 e + 64 r + n, row-tree rows
2048 e + 512 r + k, exception states 16 e + r for column rows and 64 + 4 e + r for row-tree rows. -/
structure PlainSt where
  sets : List RowSet
  colAcc : Tab (BitVec 32)
  treeAcc : Tab (BitVec 32)
  rowExc : Tab (Word × Word)
  plane : Mem
  /-- The plane's parity bits, one for each 32 bits, by word (R119). -/
  par : Tab Bool
  /-- Slot records of R271, word 0 and word 1 of each slot. -/
  recs : Tab (Word × Word)
  fills : List Fill
  /-- Halves A and B of the fill buffer (R100). -/
  halfA : Option Staged
  halfB : Option Staged
  /-- Guest vectors of drains that ended with their program before they delivered them (R118). -/
  orphans : List Guest
  /-- Retries of the lines of the re-fill that is under way of each slot, by 512 * slot + line (R337). -/
  rereads : Tab Nat
  deriving DecidableEq, Repr, Inhabited

/-- A statistic bank row (R172, R174), in the order of the context record. -/
structure BankRow where
  mx : BitVec 32
  s1 : BitVec 32
  s2 : BitVec 32
  alpha : BitVec 32
  c : BitVec 32
  d0 : BitVec 32
  d1 : BitVec 32
  d2 : BitVec 32
  deriving DecidableEq, Repr, Inhabited

/-- Progress of the open group of one bank: tiles counted, tiles in the group, and whether its derived values stand. -/
structure Group where
  count : Nat
  total : Nat
  derived : Bool
  deriving DecidableEq, Repr, Inhabited

/-- A tile that a drain has taken from a slot or row set: element (i, j) at i * n + j, codes of `kind`; rows of the tree of
R170 have `w` leaves. -/
structure TileData where
  eng : Nat
  m : Nat
  n : Nat
  w : Nat
  mLim : Nat
  nLim : Nat
  kind : AccKind
  exc : Word
  cap : Word
  acc : List Nat
  deriving DecidableEq, Repr, Inhabited

/-- One merge on its way to the sticky registers: of a drain (R146), of a guest vector (R117), or an entry of the pending
log of a CLAIMING side (R282). -/
structure LogEntry where
  tenant : Nat
  flags : BitVec 4
  inv : Nat
  cap : Word
  poison : Bool
  deriving DecidableEq, Repr, Inhabited

/-- What a drain has computed: bytes at offsets from its destination, store bytes of its reductions that wait for its last
element, rows returned to guests, the flags of stages and of entry rounding and output conversion, what goes to the
guests' sticky registers, the count of NaN codes, the place of the first invalid in the order of R59 and R378 (late, tile,
row, column, stage position), poison, and the places of the elements that made it, in the order of what it writes, with the
guest's tenant where a guest vector's (R165). -/
structure DrainOut where
  bytes : List (Nat × Byte)
  vecs : List (Nat × Byte)
  guestRows : List (Nat × List (Nat × Byte))
  /-- DX16 elements as (offset of the significand, offset of the exponent byte), for reduce-on-arrival (R226). -/
  dx : List (Nat × Nat)
  chain : Flags
  out : Flags
  guestLog : List LogEntry
  nan : Nat
  key : Option (List Nat)
  poison : Bool
  seen : List (Nat × Option Nat)
  deriving DecidableEq, Repr, Inhabited

/-- Steps of a drain (R85, R177): taking its tiles, held in the deferred-drain area, computed and on its way to its
destination, delivered. -/
inductive DrainPh where
  | taking | held | computed | delivered
  deriving DecidableEq, Repr, Inhabited

/-- A started BDRAIN: the epilogue list it latched, the slots or the row set still to be taken, the tiles taken, the old
vector values it holds (R171) as (stage position, index, code), and its ordinal. -/
structure Drain where
  ti : TI
  list : List Word
  toTake : List Nat
  tiles : List TileData
  guests : List Guest
  ph : DrainPh
  /-- Position of the ROWAPPLY before which its tiles are held. -/
  pos : Nat
  olds : List (Nat × Nat × Nat)
  seq : Nat
  out : DrainOut
  /-- Ordinals of its tiles within a deferring group. -/
  ords : List Nat
  /-- Values, with the draws of the output conversion, of the tiles that have left their last crossing; the tiles after them
  stand in the area (R177). -/
  done : List (List (List (Option (FV × Nat))))
  /-- Row partials of REDUCE_ROWS over its tiles, by 1024 * position + row (R171). -/
  rowRed : Tab (Option FV)
  /-- Bytes of its destination range (R203). -/
  span : Nat
  sent : Bool
  replayed : Bool
  /-- Store bytes that it reads have been written since its first tile crossed (R190). -/
  raced : Bool
  /-- Byte ranges of the store that it reads, and that it writes. -/
  reads : List (Nat × Nat)
  writes : List (Nat × Nat)
  /-- The places whose faults have restarted it. -/
  restarts : List Place
  stuck : Bool
  /-- Retries of the line of its status word (R337). -/
  tries : Nat
  deriving DecidableEq, Repr, Inhabited

/-- What a started, unretired instruction is doing. A Plain pass names the storage class and number of its page, and whether a
read of the page has found bad parity (R119). An XFER names its transfer and its place among the core's XFERs (R189). A BDRAIN or
a pass that has done all but that a merge, or a step-poison update, that it forwarded has yet to be made is merging (R165, R188). -/
inductive Work where
  | colPass (engs : List Nat) (tags : List Nat) (wide : Bool) (beats : Nat) (poison : Bool)
  | plainPass (row : Nat) (tree : Bool) (cls page : Nat) (beats : Nat) (poison bad : Bool)
  | fill
  | drain (d : Drain)
  | spill (eng slot rec : Nat) (auto : Bool)
  | refill (eng slot rec : Nat) (tag : Nat) (auto : Bool)
  | xfer (x n : Nat)
  | merging
  deriving DecidableEq, Repr, Inhabited

/-- A started, unretired instruction: its ordinal, its index in the program and its work (R189). -/
structure Flight where
  id : Nat
  idx : Nat
  work : Work
  deriving DecidableEq, Repr, Inhabited

/-- CORE_RUN_STATUS state (R213). -/
inductive RunState where
  | empty | loaded | running | saved
  deriving DecidableEq, Repr, Inhabited

/-- The sequencer of a core (R189 to R194, R208, R213). -/
structure RunSt where
  status : BitVec 8
  pc : Nat
  failIdx : Nat
  state : RunState
  runs : BitVec 32
  /-- The packet whose run this is; none when the core was restored and not resumed. -/
  pkt : Option Nat
  tenant : Nat
  live : Bool
  chunk : Nat
  /-- A status and index that end the program once every started instruction has retired (R194). -/
  ending : Option (BitVec 8 × Nat)
  /-- Something waits for the core's next boundary; the sequencer starts nothing (R208). -/
  hold : Bool
  drainSeq : Nat
  fault : Bool
  exc : Bool
  unloaded : BitVec 8
  deriving DecidableEq, Repr, Inhabited

/-- The image of a core: header words 0 to 2, instructions, chain lists, Ford table, and where it was loaded from. -/
structure Image where
  hdr : List Word
  instrs : List TI
  chains : List (List Word)
  fords : List (Word × Word)
  addr : Option Nat
  deriving DecidableEq, Repr, Inhabited

/-- A Ford's count and target (R196), who delivered its bytes, as tenant, offset and length, oldest first (R117), and bits [6:0]
of its header word as they stood when it last fired (R102). -/
structure FordSt where
  count : BitVec 24
  target : BitVec 16
  guests : List (Nat × Nat × Nat)
  batch : BitVec 7
  deriving DecidableEq, Repr, Inhabited

/-- A phase timer (R213). -/
structure PhaseT where
  marks : BitVec 8
  time : BitVec 56
  deriving DecidableEq, Repr, Inhabited

/-- A repair that waits for the core's next boundary: of a place that a recurrent detection marked (R333), or what a margin
survey asks for, the exclusion of a physical column or the fence of an engine (R327). -/
inductive Fix where
  | place (pl : Place)
  | column (eng col : Nat)
  | engine (eng : Nat)
  deriving DecidableEq, Repr, Inhabited

/-- Repair state of a core: what is excluded, steered, remapped or fenced, and its fault history (R92, R330 to R341). -/
structure Repair where
  rowsEx : List Nat
  colsEx : List (List Nat)
  epochs : List (BitVec 24)
  planeSpare : List (Nat × Nat)
  lineSpare : List (Nat × Nat)
  corrected : List (Nat × Nat)
  fenced : BitVec 4
  coreFenced : Bool
  mapEpoch : BitVec 8
  lastDet : Option (Place × Nat)
  /-- Indices of the instructions replayed in the current run, one entry a replay. -/
  replays : List Nat
  /-- The stopped instructions that wait for their replay, oldest first: ordinals, and the places that stopped them (R377). -/
  stopped : List (Nat × Option Place)
  /-- The instructions in replay, and the places of the faults that started their replays. -/
  replaying : List (Nat × Option Place)
  /-- Repairs that wait for the boundary, each with the index of the instruction that it ends. -/
  defect : List (Fix × Nat)
  tapPending : Bool
  /-- Beats for which the sequencer still starts nothing after a tap change (R326). -/
  tapBeats : Nat
  remap : List Nat
  deriving DecidableEq, Repr, Inhabited

/-- One core (R14 to R16, R213). Slots 0 to 3 are engine 0 slot 0, engine 0 slot 1, engine 1 slot 0, engine 1 slot 1. -/
structure Core where
  run : RunSt
  img : Image
  fords : List FordSt
  loops : List (Option (BitVec 16))
  phases : List PhaseT
  gen : Word
  lists : List (Option Nat)
  store : Mem
  bad : List Nat
  slots : List Slot
  plain : PlainSt
  banks : Tab BankRow
  groups : List Group
  area : Option Nat
  flight : List Flight
  nextF : Nat
  /-- XFERs started (R189). -/
  nextD : Nat
  rep : Repair
  eccCor : BitVec 16
  eccUnc : BitVec 16
  planePar : BitVec 16
  scrubStore : Nat
  scrubPlane : Nat
  credit : Int
  deriving DecidableEq, Repr, Inhabited

/-- Step state and sticky registers of a tenant (R145, R286). -/
structure Tenant where
  stepOpen : Bool
  stepId : BitVec 32
  poison : Bool
  live : Bool
  invDrains : BitVec 16
  flags : BitVec 4
  cap : Word
  deriving DecidableEq, Repr, Inhabited

/-- One copy of the tenant state (R277): bindings, cores bound by recovery, and every tenant's record. -/
structure TState where
  gen : BitVec 32
  bind : List (Option Nat)
  recov : List Nat
  tens : List Tenant
  deriving DecidableEq, Repr, Inhabited

/-- A command processor (R22, R277 to R284). -/
structure Cp where
  rr : Nat
  ts : TState
  current : Bool
  log : List LogEntry
  heard : Option (Role × BitVec 16)
  heardAt : Nat
  sentAt : Nat
  silent : Bool
  deriving DecidableEq, Repr, Inhabited

/-- A message on the Saddle link (R276). -/
inductive Msg where
  | heartbeat (role : Role) (epoch : BitVec 16)
  | order (pk : Nat)
  | orderDone (pk : Nat)
  | request (pk : Nat)
  | answer (pk : Nat)
  | mirror
  | merge (e : LogEntry)
  deriving DecidableEq, Repr, Inhabited

/-- Where a submitted packet stands (R22, R246). -/
inductive PkSt where
  | waiting | parked | ready | acting | running | mirror (gen : BitVec 32) | done
  deriving DecidableEq, Repr, Inhabited

/-- A reply: its two words (R243) and the port that receives it, and the retries of its line (R337). -/
structure Reply where
  port : Nat
  w0 : Word
  w1 : Word
  retries : Nat
  deriving DecidableEq, Repr, Inhabited

/-- What one core contributed to a run: status, replayed or restarted, reported invalid or overflow, and whether it ended because the
core is fenced (R243, R250, R252). -/
structure CoreRes where
  core : Nat
  status : BitVec 8
  failIdx : Nat
  fault : Bool
  exc : Bool
  fenced : Bool
  deriving DecidableEq, Repr, Inhabited

/-- A submitted packet whose credit has not returned. -/
structure Packet where
  id : Nat
  port : Nat
  words : List Word
  st : PkSt
  half : Half
  /-- Place in the order of core commands at the command processor that dispatched it, and at the other one once its order
  has arrived there (R246). -/
  order : Nat
  order2 : Option Nat
  live : Bool
  /-- Cores still to be acted on, and cores acted on. -/
  todo : List Nat
  acted : List Nat
  /-- Its order has been sent to the other command processor; that one has acted on its cores and answered; the answer has
  arrived (R276). -/
  ordered : Bool
  orderSent : Bool
  orderDone : Bool
  /-- A request to the lead has been sent; the lead's answer has arrived (R277). -/
  asked : Bool
  answered : Bool
  results : List CoreRes
  /-- SELECT_BUCKET: chunk running, chunks in all, bucket index and its length. -/
  chunk : Nat
  chunks : Nat
  bucket : Nat
  bucketLen : Nat
  pagesLeft : Nat
  reply : Option (Word × Word)
  /-- Retries of the lines that it moves itself, by line, and whether one has failed its fourth (R337). -/
  retries : List (Nat × Nat)
  lost : Bool
  deriving DecidableEq, Repr, Inhabited

/-- Who sent a transfer: an instruction of a core (its number and its index in the program), a command's packet, or a guest
return or the signal of a zero-length XFER of a core, which no instruction waits for (the core's count of ended runs then, and
the index of the instruction) (R117, R207, R218). -/
inductive Owner where
  | instr (c f idx : Nat)
  | packet (pk : Nat)
  | quiet (c run idx : Nat)
  deriving DecidableEq, Repr, Inhabited

/-- A place bytes come from or go to (R198, R254). -/
inductive Loc where
  | fabric (a : Nat)
  | store (c off : Nat)
  | ford (c n off : Nat)
  deriving DecidableEq, Repr, Inhabited

/-- What a transfer carries: a copy described by R205 and R219, or the bytes of a drain at offsets from the destination,
with the DX16 layout (columns, rows, pitch) that a reduce Ford records. -/
inductive Payload where
  | copy (src : Loc) (srcPitch rows rowBytes dstPitch : Nat) (skew : Nat) (skewEng : Nat) (wide : Bool) (fmt : Nat)
  | data (bytes : List (Nat × Byte)) (dx16 : Bool) (n m pitch : Nat) (elems : List (Nat × Nat))
  deriving DecidableEq, Repr, Inhabited

/-- A transfer in flight. -/
structure Transfer where
  id : Nat
  tenant : Nat
  owner : Owner
  dst : Loc
  load : Payload
  /-- The source bytes of a copy in source order, once all have been read. -/
  data : List Byte
  /-- Its place in the order of sending, once its bytes are at hand (R224). -/
  sent : Option Nat
  /-- Source addresses that another transfer has written while it read them, in no order with it (R237). -/
  race : List Nat
  /-- Retries of its lines: line within the transfer, and count (R337). -/
  retries : List (Nat × Nat)
  /-- Place in source order of its first uncorrectable byte (R336). -/
  badAt : Option Nat
  deriving DecidableEq, Repr, Inhabited

/-- Lines still to be issued toward the memory ports: the transfer or the read of a fill buffer that asks, the core whose DMA
or fill buffer issues them (none for a data-move engine), the first line, as a fabric address divided by 64, and how many; the
lines of a read lie in one granule (R218, R232). -/
structure Lines where
  owner : Nat
  core : Option Nat
  line : Nat
  n : Nat
  deriving DecidableEq, Repr, Inhabited

/-- An outstanding read request of a memory port: its tag, who asks, the next line awaited in the stack, its index in the
request, and how many lines are awaited (R232, R355). -/
structure ReadReq where
  tag : Nat
  owner : Nat
  core : Option Nat
  line : Nat
  idx : Nat
  left : Nat
  deriving DecidableEq, Repr, Inhabited

/-- A memory port: its outstanding write lines, oldest first, its outstanding read requests, and its recent flagged lines
(R340, R355). -/
structure MemPort where
  wrq : List Lines
  rdq : List ReadReq
  flagHist : List (Nat × Nat)
  deriving DecidableEq, Repr, Inhabited

/-- Rounds of a survey (R327, R328). -/
inductive Round where
  | first | retap | floor | final
  deriving DecidableEq, Repr, Inhabited

/-- A survey in progress. `latest` holds each group's domain, number, latest working margin and weakest column. -/
structure Survey where
  pk : Option Nat
  doms : List Nat
  round : Round
  since : Nat
  /-- The supply has settled at the floor of a floor round (R328). -/
  settled : Bool
  retapped : List (Nat × Nat)
  changed : List Nat
  latest : List (Nat × Nat × Int × Nat)
  /-- Replica counts of its latest measurements, np and nm of group g of domain d at 16 d + g (R324, R371). -/
  counts : Tab (Nat × Nat)
  retaps : Nat
  fences : Nat
  warn : Bool
  deriving DecidableEq, Repr, Inhabited

/-- MARGIN_STATUS but for floor_code, which the power manager holds (R329). -/
structure Margin where
  surveys : BitVec 16
  worst : BitVec 8
  worstDom : BitVec 6
  worstGrp : BitVec 4
  running : Bool
  fail : Bool
  warn : Bool
  retaps : BitVec 8
  fences : BitVec 4
  deriving DecidableEq, Repr, Inhabited

/-- Every domain other than the always-on domain (R310, R358, R360). -/
structure Blk where
  cores : List Core
  served : List Half
  west : Cp
  east : Cp
  pkts : List Packet
  replies : List Reply
  xfers : List Transfer
  ports : List MemPort
  /-- Read runs and write lines that wait to be issued, oldest first. -/
  readQ : List Lines
  writeQ : List Lines
  nextSend : Nat
  saddle : List (Half × Msg)
  survey : Option Survey
  margin : Margin
  /-- Replica counts of the last survey (R371). -/
  counts : Tab (Nat × Nat)
  /-- TAP_TABLE: tap of group g of domain d at 16 d + g. -/
  taps : Tab (BitVec 4)
  /-- Raised taps of cores that wait for their boundary (R326), by the same keys. -/
  tapsDue : Tab (BitVec 4)
  /-- Reserve cores that recovery is binding, each with its tenant (R343). -/
  recover : List (Nat × Nat)
  nextPk : Nat
  nextOrd : Nat
  nextX : Nat
  deriving DecidableEq, Repr, Inhabited

/-- The machine. `mem` is the fabric memory behind the memory ports and `flagged` its lines that the stacks flag as
uncorrectable; `free` counts free values used; `pending` is the queue of waiting commands, first in first out. -/
structure State where
  cfg : Configuration
  pins : Pins
  aon : Aon
  hp : List HostPort
  blk : Blk
  mem : Mem
  flagged : List Nat
  free : Nat
  pending : List Instr
  deriving DecidableEq, Repr, Inhabited

/-- Why the model stops. -/
inductive Fault where
  /-- Raised by every command whose operand names a core, port, domain, power group or command processor that the
  configuration does not build (R16 to R18, R310): the hardware has no such unit and so no such event. Safe. -/
  | noSuchUnit
  deriving DecidableEq, Repr

/-- Why the model gives a command no meaning. -/
inductive Refusal where
  /-- Raised by an arm of the dispatcher for a command that has no meaning yet. Safe. -/
  | notModelled (mnemonic : String)
  deriving DecidableEq, Repr

/-! ### The configurations (R3, R16, R17, Table — Capability values by configuration) -/

def Configuration.colCores : Configuration → Nat
  | .mbf64 => 16 | .mbf32 => 8 | .mbf16 => 4

def Configuration.plainCores (k : Configuration) : Nat := k.colCores

/-- Cores built, numbered from 0 (R16). -/
def Configuration.nCores (k : Configuration) : Nat := k.colCores + k.plainCores

/-- Memory ports built (R17). -/
def Configuration.nPorts : Configuration → Nat
  | .mbf64 => 20 | .mbf32 => 10 | .mbf16 => 5

/-- Whether the East command processor is built (CAPS0 cmd_procs). -/
def Configuration.hasEast : Configuration → Bool
  | .mbf16 => false | _ => true

def Configuration.caps0 : Configuration → Word
  | .mbf64 => 0x0101102802141010#64
  | .mbf32 => 0x01011016020A0808#64
  | .mbf16 => 0x0101100C01050404#64

def Configuration.caps1 : Configuration → Word
  | .mbf64 => 0x3F#64 | .mbf32 => 0x3C#64 | .mbf16 => 0x08#64

/-- Power groups of memory ports (R17). -/
def Configuration.nGroups (k : Configuration) : Nat := k.nPorts / 5

/-- Power domains (R310). -/
def Configuration.nDoms (k : Configuration) : Nat :=
  k.nCores + 1 + k.hasEast.toNat + 1 + k.nGroups + 1

/-- Lowest and highest power ceiling in watts (Table — Configurations). -/
def Configuration.wattsMin : Configuration → Nat
  | .mbf64 => 300 | .mbf32 => 160 | .mbf16 => 90

def Configuration.wattsMax : Configuration → Nat
  | .mbf64 => 1600 | .mbf32 => 850 | .mbf16 => 450

/-! ### Reset -/

def Slot.reset : Slot := ⟨.empty, 0, 0, 0, 0, .f32, false, 0, 0, 0, [], 0, none, none, false, []⟩

def PlainSt.reset : PlainSt := ⟨[], [], [], [], [], [], [], [], none, none, [], []⟩

def RunSt.reset : RunSt := ⟨0, 0, 0, .empty, 0, none, 0, false, 0, none, false, 0, false, false, 0⟩

def Image.empty : Image := ⟨[], [], [], [], none⟩

/-- Every loop counter inactive (R191). -/
def loopsIdle : List (Option (BitVec 16)) := [none, none, none, none]

/-- Every chain list empty, one per target code 000 to 100 (R148, R149). -/
def listsEmpty : List (Option Nat) := [none, none, none, none, none]

def PhaseT.zero : PhaseT := ⟨0, 0⟩

def Repair.reset : Repair :=
  ⟨[], [[], []], [0, 0], [], [], [], 0, false, 0, none, [], [], [], [], false, 0, []⟩

def Group.none : Group := ⟨0, 0, false⟩

/-- A core after reset: no program, stores zero, generator 1 (R61, R213, R365). -/
def Core.reset : Core :=
  { run := .reset, img := .empty, fords := [], loops := loopsIdle, phases := List.replicate 32 .zero, gen := 1
    lists := listsEmpty, store := [], bad := [], slots := List.replicate 4 .reset, plain := .reset, banks := []
    groups := [.none, .none], area := none, flight := [], nextF := 0, nextD := 0, rep := .reset, eccCor := 0, eccUnc := 0
    planePar := 0, scrubStore := 0, scrubPlane := 0, credit := 0 }

def Tenant.reset : Tenant := ⟨false, 0, false, false, 0, 0, 0⟩

def TState.reset (k : Configuration) : TState :=
  ⟨0, List.replicate k.nCores none, [], List.replicate 16 .reset⟩

def Cp.reset (k : Configuration) : Cp := ⟨0, .reset k, true, [], none, 0, 0, false⟩

def HostPort.reset : HostPort := ⟨[], 0, 16, 0, false, 0, 0, 0, 0, 0, .west, []⟩

def Margin.reset : Margin := ⟨0, 0, 0, 0, false, false, false, 0, 0⟩

/-- Half of a core by its number (R16). -/
def Configuration.halfOf (k : Configuration) (c : Nat) : Half :=
  if k.hasEast && decide (k.nCores / 2 ≤ c) then .east else .west

/-- Half of a memory port by its number (R17). -/
def Configuration.portHalf (k : Configuration) (q : Nat) : Half :=
  if k.hasEast && decide (k.nPorts / 2 ≤ q) then .east else .west

/-- Every domain other than the always-on domain after a reset of the block. -/
def Blk.reset (k : Configuration) : Blk :=
  { cores := List.replicate k.nCores .reset, served := (List.range k.nCores).map k.halfOf
    west := .reset k, east := .reset k, pkts := [], replies := [], xfers := []
    ports := List.replicate k.nPorts ⟨[], [], []⟩, readQ := [], writeQ := [], nextSend := 0
    saddle := [], survey := none, margin := .reset, counts := [], taps := [], tapsDue := [], recover := []
    nextPk := 0, nextOrd := 0, nextX := 0 }

def Power.reset (k : Configuration) : Power :=
  ⟨0x290, 0x46, BitVec.ofNat 16 k.wattsMax, 0x32, 0x0A, 0, 0, 0, 0, 0, false, false, [], 0⟩

def Fuses.reset : Fuses := ⟨[], 0, 0, 0, 0, 0, .idle, false, [], false⟩

def Wrapper.reset : Wrapper := ⟨.bypass, false, [], [], 0, false, 0, [], 0⟩

def Held.none : Held := ⟨[], 0, false, false, false, [], false, false, [], 0⟩

def Pins.reset (k : Configuration) : Pins :=
  ⟨0, 0, true, false, false, false, false, false, List.replicate k.nGroups false, List.replicate k.nPorts false⟩

/-- The always-on domain after power-on (R321, R360). -/
def Aon.reset (k : Configuration) : Aon :=
  { phase := .reset, testRefused := false, strapErr := false, bootPort := 0, clamps := 0, caps0 := 0, caps1 := 0
    sealed := false, leadHalf := false, policyCrc := 0, policy := List.replicate 113 0, epochW := 0, epochE := 0
    roleW := .off, roleE := .off, saddleUp := false, time := 0, refKhz := 0x2710, armed := false, alarm := 0
    therm := 0x2A4, thermArmed := true, busy := 0, surveyAt := 0, cause := 0, wakeEn := 0xF, firedNow := 0, armedNow := false
    wakeHit := false, asleep := false
    sleep := .awake, power := .reset k, doms := List.replicate k.nDoms (.still .on), sensors := List.replicate 64 0
    sampledAt := 0, fuses := .reset, listA := [], withdrawn := [], wrap := .reset, held := .none, surveyDue := false }

/-- The machine of configuration k right after power-on of the always-on domain with blk_rst_n low: phase RESET. -/
def State.resetOf (k : Configuration) : State :=
  { cfg := k, pins := .reset k, aon := .reset k, hp := List.replicate 8 .reset, blk := .reset k, mem := [], flagged := []
    free := 0, pending := [] }

/-- The machine right after reset (R358, R360, R365); the configuration is a choice of the model (log entry 2). -/
def State.reset : State := State.resetOf .mbf64

end Sys2Proof.Machine
end

