-- ==== Sys2Proof/Config.lean ====
section
/-! DEFINITION. The free values: what the spec leaves open and the machine goes on with. None has a body, so no proof can
rest on a value of theirs (log entries 5, 7, 12, 14, 18, 26, 29, 32, 34). -/

namespace Sys2Proof.Config

open Sys2Proof.Machine

/-- The tap of the manufacturing plan of group g of domain d (R305, R325). -/
opaque mfgTap : Nat → Nat → BitVec 4

/-- The range correction of group g of domain d, in 0.25 % units: from the present supply code and sensor codes over the allowed
range from a floor code to a highest supply code at a junction limit (R324). -/
opaque rangeCorrection : (d g vreq : Nat) → (sensors : List Nat) → (floor vmax tj : Nat) → Nat

/-- The state of every domain other than the always-on domain once vdd_core has left its range, and under internal scan
(R358, R372): one state for each value of the counter of free values. -/
opaque undefinedBlk : Nat → Blk

/-- A bit that an internal scan chain, the memory test's result register or a capture pulse yields (R371, R372). -/
opaque scanBit : Nat → Bool

/-- One less than the length of the parallel scan chains, and of the serial one (R371, R372 give none), and what the chains hold
after a capture, one bit of each chain a word. -/
opaque chainLen : Nat
opaque serialLen : Nat
opaque scanWord : Nat → Nat → BitVec 64

/-- What the signals of an output group last drove where the model has no value for them (R362). -/
opaque heldOut : Nat → Nat → Bool

/-- The return descriptor that a guest vector carries, from the words of the vector's slot in the guest Ford: core, Ford,
offset and return format (R117 gives its meaning and no layout). -/
opaque guestReturn : List Word → Nat × Nat × Nat × Fmt

/-- What a context record does not hold of a tile in the deferred-drain area: exception word and first capture of its
accumulation, and flags of the stages it has crossed (R180, R271). -/
opaque heldReport : Nat → Nat → Word × Word × BitVec 4

/-- What a fuse slot reads after a burn of a record, and what it reads after a burn that a reset has cut short (R347, R361). -/
opaque burned : Nat → Word → Word
opaque partBurned : Nat → Word → Word

/-- A byte that a transfer reads in no order with a write of it (R190, R237), and one that a drain makes of such bytes. -/
opaque racedByte : Nat → Byte

/-- What a context record does not hold of a group's first crossings: a value that a reduction or a finished tile of a restored
held drain has, by its place (R180, R271). -/
opaque heldValue : Nat → Nat → FV
opaque heldDraw : Nat → Nat → Nat

/-- The replica counts of the last survey as WS_SENSOR shifts them out: np and nm of group g of domain d stand at 16 d + g (R371
gives no layout). -/
opaque replicaBits : Tab (Nat × Nat) → List Bool

/-- What undefined store bytes make of an accumulator and of a tile's exception state, in a pass that reads them or is replayed
over them (R90, R190): the accumulator's code, flags and poison, and a capture. -/
opaque racedAcc : Nat → Nat
opaque racedFlags : Nat → BitVec 4
opaque racedWord : Nat → Word

/-- What they make of a row of a statistic bank in a drain that reads them (R190). -/
opaque racedBank : Nat → BankRow

end Sys2Proof.Config
end

