-- ==== Sys2Proof/Machine/Bits.lean ====
section
/-! DEFINITION. Bit fields of 64-bit words, core masks, CRC-32 and the fields of a tile instruction (R185 to R206). -/

namespace Sys2Proof.Machine

/-- Bits [hi:lo] of a word, as a number. -/
def fld (w : Word) (hi lo : Nat) : Nat := (w.toNat >>> lo) % 2 ^ (hi - lo + 1)

/-- Bit i of a word. -/
def bitOf (w : Word) (i : Nat) : Bool := w.toNat.testBit i

/-- A value placed with its lowest bit at lo, cut to its field width. -/
def put (hi lo v : Nat) : Nat := (v % 2 ^ (hi - lo + 1)) <<< lo

def word (n : Nat) : Word := BitVec.ofNat 64 n

/-- The numbers of the set bits of a mask below n, ascending. -/
def bitsBelow (n mask : Nat) : List Nat := (List.range n).filter (fun i => mask.testBit i)

/-- The mask with the named bits set. -/
def maskOf (l : List Nat) : Nat := l.foldl (fun m i => m ||| 1 <<< i) 0

/-- One byte into a reflected CRC-32 register (R184). -/
def crcByte : Nat → Nat → Nat
  | 0, c => c
  | k + 1, c => crcByte k (if c % 2 == 1 then (c / 2) ^^^ 0xEDB88320 else c / 2)

/-- CRC-32 of the IEEE 802.3 frame check sequence (R184). -/
def crc32 (bs : List Byte) : Nat :=
  (bs.foldl (fun c b => crcByte 8 (c ^^^ b.toNat)) 0xFFFFFFFF) ^^^ 0xFFFFFFFF

/-- The eight bytes of a word, lowest first (R11). -/
def bytesOfWord (w : Word) : List Byte := (numBytes 0 8 w.toNat).map (·.2)

/-- Saturating count in n bits. -/
def satAdd (n a b : Nat) : Nat := min (a + b) (2 ^ n - 1)

/-! ### Word 0 of every tile instruction (R187) -/

namespace TI
variable (t : TI)
def opcode : Nat := fld t.w0 63 56
def fence : Bool := bitOf t.w0 55
def waitEn : Bool := bitOf t.w0 54
def waitFord : Nat := fld t.w0 53 48
def consume : Bool := bitOf t.w0 47
def loopOp : Nat := fld t.w0 46 45
def loopLvl : Nat := fld t.w0 44 43
def loopTarget : Nat := fld t.w0 42 32
def loopRep : Nat := fld t.w0 31 16

/-! OPASS (R199); engSel also of BDRAIN. -/
def engSel : Nat := fld t.w0 15 14
def oAdd : Bool := bitOf t.w0 13
def oTag : Nat := fld t.w0 12 9
def oTag1 : Nat := fld t.w0 8 5
def fmtA : Nat := fld t.w1 63 60
def fmtB : Nat := fld t.w1 59 56
def ovf : Bool := bitOf t.w1 55
def flush : Bool := bitOf t.w1 54
def pieceA : Nat := fld t.w1 53 52
def pieceB : Nat := fld t.w1 51 50
def cpartA : Bool := bitOf t.w1 49
def cpartB : Bool := bitOf t.w1 48
def cneg : Bool := bitOf t.w1 47
def cpartA1 : Bool := bitOf t.w1 46
def cpartB1 : Bool := bitOf t.w1 45
def cneg1 : Bool := bitOf t.w1 44
def oCplx : Bool := bitOf t.w1 43
def kExt : Nat := fld t.w1 31 16
def oKLim : Nat := fld t.w1 15 0
def mExt : Nat := fld t.w2 63 55
def oMLim : Nat := fld t.w2 54 46
def nExt : Nat := fld t.w2 45 37
def oNLim : Nat := fld t.w2 36 28
def nExt1 : Nat := fld t.w2 27 19
def oNLim1 : Nat := fld t.w2 18 10
def aAddr : Nat := 64 * fld t.w3 63 45
def bAddr : Nat := 64 * fld t.w3 44 26
def b1Addr : Nat := 64 * fld t.w3 25 7

/-! DPASS and TPASS (R200). -/
def pAdd : Bool := bitOf t.w0 15
def pRow : Nat := fld t.w0 14 11
def batchDyn : Bool := bitOf t.w0 10
def share : Bool := bitOf t.w0 9
def guestFord : Nat := fld t.w0 8 3
def fmtAct : Nat := fld t.w1 63 60
def fmtW : Nat := fld t.w1 59 56
def pieceW : Nat := fld t.w1 53 52
def pCplx : Bool := bitOf t.w1 51
def vecMax : Nat := fld t.w1 50 44
def pKLim : Nat := fld t.w1 43 34
def pNLim : Nat := fld t.w1 33 27
def kBase : Nat := fld t.w1 15 0
def page : Nat := fld t.w2 63 53
def vecPitch : Nat := 64 * fld t.w2 52 37
def scaleAddr : Nat := 64 * fld t.w2 36 21

/-! PFILL (R201). -/
def fCls : Nat := fld t.w0 15 13
def fPage : Nat := fld t.w0 10 0
def fSrc : Nat := fld t.w1 47 0

/-! BDRAIN (R202). -/
def dTag : Nat := fld t.w0 13 10
def dTag1 : Nat := fld t.w0 9 6
def dRow : Nat := fld t.w0 5 2
def dTree : Bool := bitOf t.w0 1
def outFmt : Nat := fld t.w1 63 60
def dRnd : Nat := fld t.w1 59 58
def dOvf : Bool := bitOf t.w1 57
def dFlush : Bool := bitOf t.w1 56
def dKind : Nat := fld t.w1 55 54
def dDst : Nat := fld t.w1 47 0
def dPitch : Nat := fld t.w2 63 40
def dMLim : Nat := fld t.w2 39 31
def dNLim : Nat := fld t.w2 30 22
def dNLim1 : Nat := fld t.w2 21 13
def stKind : Nat := fld t.w3 63 62
def stAddr : Nat := fld t.w3 47 0

/-! SPILL and REFILL (R204). -/
def sEng : Nat := fld t.w0 15 15
def sTag : Nat := fld t.w0 14 11
def recOff : Nat := fld t.w1 31 0

/-! XFER (R205). -/
def xSrcKind : Nat := fld t.w0 15 14
def xDstKind : Nat := fld t.w0 13 12
def skew : Nat := fld t.w0 11 10
def skewEng : Nat := fld t.w0 9 9
def skewWide : Bool := bitOf t.w0 8
def xSrcPitch : Nat := 64 * fld t.w1 63 48
def xSrc : Nat := fld t.w1 47 0
def xDstPitch : Nat := 64 * fld t.w2 63 48
def xDst : Nat := fld t.w2 47 0
def rowBytes : Nat := fld t.w3 63 40
def rows : Nat := fld t.w3 39 24
def skewFmt : Nat := fld t.w3 23 20

/-! Control instructions (R206). -/
def armFord : Nat := fld t.w0 15 10
def armClear : Bool := bitOf t.w0 9
def armTarget : Nat := fld t.w1 15 0
def listIdx : Nat := fld t.w0 15 10
def listEmpty : Bool := bitOf t.w0 9
def pTarget : Nat := fld t.w0 8 6
def markId : Nat := fld t.w0 15 11

end TI

/-! ### Tile opcodes (R188) -/

inductive Op where
  | opass | dpass | tpass | pfill | bdrain | spill | refill | xfer | await | arm | chain | pchain | mark | sync | fin
  deriving DecidableEq, Repr, Inhabited

def Op.ofCode : Nat → Option Op
  | 0x01 => some .opass | 0x02 => some .dpass | 0x03 => some .tpass | 0x08 => some .pfill | 0x09 => some .bdrain
  | 0x0A => some .spill | 0x0B => some .refill | 0x10 => some .xfer | 0x11 => some .await | 0x12 => some .arm
  | 0x18 => some .chain | 0x19 => some .pchain | 0x20 => some .mark | 0x21 => some .sync | 0x3F => some .fin
  | _ => none

def TI.op? (t : TI) : Option Op := Op.ofCode t.opcode

/-! ### Statuses (R249, R250) -/

inductive Status where
  | ok | okExceptions | malformed | notPermitted | notPresent | accOvercommit | rowTooLong | bucketOverflow
  | faultRetried | faultFenced | redirect | poisonedStep | sealed
  deriving DecidableEq, Repr, Inhabited

def Status.code : Status → Nat
  | .ok => 0x00 | .okExceptions => 0x01 | .malformed => 0x10 | .notPermitted => 0x11 | .notPresent => 0x12
  | .accOvercommit => 0x13 | .rowTooLong => 0x14 | .bucketOverflow => 0x15 | .faultRetried => 0x20 | .faultFenced => 0x21
  | .redirect => 0x22 | .poisonedStep => 0x30 | .sealed => 0x31

/-- Place in the ranking of R250, 1 the highest; statuses that are never gathered rank 0. -/
def rankOf (code : Nat) : Nat :=
  match code with
  | 0x21 => 1 | 0x11 => 2 | 0x10 => 3 | 0x12 => 4 | 0x13 => 5 | 0x14 => 6 | 0x20 => 7 | 0x01 => 8 | 0x00 => 9 | _ => 0

end Sys2Proof.Machine
end

