-- ==== Sys2Proof/Machine/Ops.lean ====
section
/-! DEFINITION. The named operations over the state: units, always-on time, the sealed policy, tenant state, fabric
addresses, skews, replies and credits, merges, and the ending of a program. -/

/-- The other half. -/
def Sys2Proof.Half.other : Sys2Proof.Half → Sys2Proof.Half
  | .west => .east
  | .east => .west

namespace Sys2Proof.Machine

open Host

/-- What exec answers. -/
abbrev Out := Outcome State Fault Refusal

/-! ### Units -/

def State.core? (s : State) (c : Nat) : Option Core := s.blk.cores[c]?

def State.setCore (s : State) (c : Nat) (k : Core) : State :=
  { s with blk := { s.blk with cores := s.blk.cores.set c k } }

def State.modCore (s : State) (c : Nat) (f : Core → Core) : State :=
  match s.core? c with
  | some k => s.setCore c (f k)
  | none => s

/-- Even cores are Col cores, odd cores Plain cores (R16). -/
def isCol (c : Nat) : Bool := c % 2 == 0

def State.modHp (s : State) (p : Nat) (f : HostPort → HostPort) : State := { s with hp := s.hp.modify p f }

def State.cp (s : State) : Half → Cp
  | .west => s.blk.west
  | .east => s.blk.east

def State.modCp (s : State) (h : Half) (f : Cp → Cp) : State :=
  match h with
  | .west => { s with blk := { s.blk with west := f s.blk.west } }
  | .east => { s with blk := { s.blk with east := f s.blk.east } }

def State.role (s : State) : Half → Role
  | .west => s.aon.roleW
  | .east => s.aon.roleE

def State.setRole (s : State) (h : Half) (r : Role) : State :=
  match h with
  | .west => { s with aon := { s.aon with roleW := r } }
  | .east => { s with aon := { s.aon with roleE := r } }

def State.epoch (s : State) : Half → BitVec 16
  | .west => s.aon.epochW
  | .east => s.aon.epochE

def State.setEpoch (s : State) (h : Half) (e : BitVec 16) : State :=
  match h with
  | .west => { s with aon := { s.aon with epochW := e } }
  | .east => { s with aon := { s.aon with epochE := e } }

/-- Whether the configuration builds the command processor of half h (CAPS0 cmd_procs). -/
def State.hasCp (s : State) (h : Half) : Bool := decide (h = .west) || s.cfg.hasEast

/-! ### Power domains (R310) -/

def State.domCp (s : State) : Half → Nat
  | .west => s.cfg.nCores
  | .east => s.cfg.nCores + 1

def State.domAon (s : State) : Nat := s.cfg.nCores + 1 + s.cfg.hasEast.toNat
def State.domGroup (s : State) (g : Nat) : Nat := s.domAon + 1 + g
def State.domValley (s : State) : Nat := s.cfg.nDoms - 1

def State.dom (s : State) (d : Nat) : Dom := s.aon.doms.getD d (.still .off)

def State.domOn (s : State) (d : Nat) : Bool := decide (s.dom d = .still .on)

def State.setDom (s : State) (d : Nat) (x : Dom) : State :=
  { s with aon := { s.aon with doms := s.aon.doms.set d x } }

/-- A fuse reload from phase OPEN is in progress: the command processors stay up and hold dispatch (R365). -/
def State.reloading (s : State) : Bool := decide (s.aon.phase = .fuseRead) && decide (s.aon.fuses.state = .reload)

/-- The command processor of half h is powered and out of reset, in a phase in which it works (R278, R285, R360). -/
def State.cpUp (s : State) (h : Half) : Bool :=
  s.hasCp h && s.domOn (s.domCp h) && !s.pins.blkRstLow
    && !(match h with | .west => s.pins.cpwLow | .east => s.pins.cpeLow)
    && (decide (s.aon.phase = .init) || decide (s.aon.phase = .ready) || decide (s.aon.phase = .opened) || decide (s.aon.phase = .sealed)
      || s.reloading)

/-! ### Always-on time (R10, R321) -/

def State.now (s : State) : Nat := s.aon.time.toNat

/-- Ticks of an interval in microseconds: ceil(interval x ref_khz / 1 ms) (R321). -/
def State.ticks (s : State) (us : Nat) : Nat := (us * s.aon.refKhz.toNat + 999) / 1000

/-- Ticks of an interval in nanoseconds (R321). -/
def State.ticksNs (s : State) (ns : Nat) : Nat := (ns * s.aon.refKhz.toNat + 999999) / 1000000

/-- Ticks passed since an earlier reading; the counter wraps at 2^56. -/
def State.since (s : State) (t : Nat) : Nat := (s.now + 2 ^ 56 - t) % 2 ^ 56

/-- Whether an interval has passed since an earlier reading. -/
def State.past (s : State) (t us : Nat) : Bool := decide (s.ticks us ≤ s.since t)

/-- Start a change of domain d that completes after an interval (R311). -/
def State.startDom (s : State) (d : Nat) (goal : Rest) (us : Nat) : State :=
  s.setDom d (.changing goal ((s.now + s.ticks us) % 2 ^ 56))

/-! ### The sealed policy (R260) -/

def State.pw (s : State) (i : Nat) : Word := s.aon.policy.getD i 0

/-- Place of the first value word of a field among the 113, and how many it has (Table — Policy fields). -/
def policySlot (idx : Nat) : Option (Nat × Nat) :=
  if idx = 0 then some (0, 1)
  else if 0x100 ≤ idx ∧ idx < 0x108 then some (1 + 2 * (idx - 0x100), 2)
  else if 0x200 ≤ idx ∧ idx < 0x210 then some (17 + 5 * (idx - 0x200), 5)
  else if 0x300 ≤ idx ∧ idx < 0x310 then some (97 + (idx - 0x300), 1)
  else none

namespace State
variable (s : State)
def polReserve : Nat := fld (s.pw 0) 31 0
def polLeadEast : Bool := bitOf (s.pw 0) 32
def hostW1 (h : Nat) : Word := s.pw (1 + 2 * h)
def hostW2 (h : Nat) : Word := s.pw (2 + 2 * h)
def hostExists (h : Nat) : Bool := bitOf (s.hostW1 h) 63
def hostHome (h : Nat) : Half := if bitOf (s.hostW1 h) 62 then .east else .west
def hostSurvey (h : Nat) : Bool := bitOf (s.hostW1 h) 61
def hostRebind (h : Nat) : Nat := fld (s.hostW1 h) 47 32
def hostTenants (h : Nat) : Nat := fld (s.hostW1 h) 15 0
def hostMaxCol (h : Nat) : Nat := fld (s.hostW2 h) 63 59
def hostMaxPlain (h : Nat) : Nat := fld (s.hostW2 h) 58 54
def hostPortShare (h : Nat) : Nat := fld (s.hostW2 h) 53 50
def hostMaxGran (h : Nat) : Nat := fld (s.hostW2 h) 28 0
def tenW1 (t : Nat) : Word := s.pw (17 + 5 * t)
def tenEnabled (t : Nat) : Bool := bitOf (s.tenW1 t) 63
def tenEvict (t : Nat) : Bool := bitOf (s.tenW1 t) 62
def tenOwner (t : Nat) : Nat := fld (s.tenW1 t) 61 59
def tenWindows (t : Nat) : Nat := fld (s.tenW1 t) 58 56
def tenEvGran (t : Nat) : Nat := fld (s.tenW1 t) 28 0
/-- Window w of tenant t: first granule and length in granules. -/
def tenWin (t w : Nat) : Nat × Nat :=
  let x := s.pw (18 + 5 * t + w)
  (fld x 28 0, fld x 60 32)
def share (i : Nat) : Word := s.pw (97 + i)
/-- The tenants mask that HP_IDENT publishes: 0 before SEAL, and only of a host that exists (R238, R263). -/
def portTenants (p : Nat) : Nat := if s.aon.sealed && s.hostExists p then s.hostTenants p else 0

/-- A range lies wholly inside one window of tenant t (R236). -/
def inWindow (t a len : Nat) : Bool :=
  (List.range (s.tenWindows t)).any fun w =>
    decide ((s.tenWin t w).1 * 4096 ≤ a) && decide (a + len ≤ ((s.tenWin t w).1 + (s.tenWin t w).2) * 4096)

end State

/-! ### The interleave hash and fabric addresses (R234 to R236) -/

/-- The fold of L in the hash. -/
def foldL (l : Nat) : Nat :=
  (l % 32) ^^^ (l / 32 % 32) ^^^ (l / 1024 % 32) ^^^ (l / 32768 % 32) ^^^ (l / 1048576 % 32) ^^^ (l / 33554432 % 16)

/-- PORT_OF: the port and the byte address within its stack; A is the interleave list. -/
def portOf (A : List Nat) (addr : Nat) : Nat × Nat :=
  let g := addr / 4096 % 2 ^ 29
  let l := g / A.length
  let j := g % A.length
  (A.getD ((j + foldL l) % A.length) 0, l * 4096 + addr % 4096)

/-- The fabric address of a byte of a port's stack, the inverse of the hash; none where the port is not in A. -/
def addrOf (A : List Nat) (port loc : Nat) : Option Nat :=
  let i := A.findIdx (· == port)
  if A.length ≤ i then none
  else
    let l := loc / 4096
    let j := (i + A.length * 32 - foldL l % (A.length * 32)) % A.length
    some ((l * A.length + j) * 4096 + loc % 4096)

/-- Granules backed under list A: one contiguous range from address 0, inside the external window (R234). -/
def backedBytes (A : List Nat) : Nat := min (A.length * 0x1800000 * 4096) (2 ^ 41)

/-- A range lies wholly within the backed range of R234 under the boot-time list A. -/
def State.backed (s : State) (a len : Nat) : Bool := decide (a + len ≤ backedBytes s.aon.listA)

/-- A range touches a granule of a withdrawn port (R235). -/
def State.lostRange (s : State) (a len : Nat) : Bool :=
  if len = 0 then false
  else (List.range ((a + len - 1) / 4096 - a / 4096 + 1)).any fun i =>
    s.aon.withdrawn.contains (portOf s.aon.listA ((a / 4096 + i) * 4096)).1

/-- The withdrawn ports a range touches, as a mask (dkind 0x7 of R243). -/
def State.lostMask (s : State) (a len : Nat) : Nat :=
  maskOf (((List.range ((a + len - 1) / 4096 - a / 4096 + 1)).map fun i =>
    (portOf s.aon.listA ((a / 4096 + i) * 4096)).1).filter s.aon.withdrawn.contains)

/-- A malformed alias: img 0 with half 1, or img 1 with cs non-zero (R291). -/
def aliasBad (a : Nat) : Bool :=
  a.testBit 47 && ((!a.testBit 46 && a.testBit 45) || (a.testBit 46 && decide (a / 2 ^ 41 % 16 ≠ 0)))

/-- An image-relative alias of the live half (R292). -/
def aliasLive (a : Nat) : Bool := a.testBit 47 && a.testBit 46 && !a.testBit 45

/-- TRANSLATE of R289: none where an image-relative alias fails with NOT_PERMITTED (R291). -/
def State.translate (s : State) (t : Nat) (live : Bool) (chunk a len : Nat) : Option Nat :=
  if !a.testBit 47 then some a
  else if a.testBit 46 then
    let w := if xor live (a.testBit 45) then 1 else 0
    let n := (s.tenWin t w).2
    if decide (2 ≤ s.tenWindows t) && decide ((s.tenWin t 0).2 = (s.tenWin t 1).2)
        && decide (a % 2 ^ 41 + len ≤ n * 4096) then
      some ((s.tenWin t w).1 * 4096 + a % 2 ^ 41)
    else none
  else
    let cs := a / 2 ^ 41 % 16
    some (a % 2 ^ 41 + chunk * (if cs = 0 then 0 else 2 ^ (cs + 15)))

/-! ### Tenant state (R277) and who serves what (R275) -/

/-- The half that holds the authoritative copy: the LEAD; West where there is none. -/
def State.leadHalf (s : State) : Half :=
  if s.aon.roleE = .lead && decide (s.aon.roleW ≠ .lead) then .east else .west

def State.auth (s : State) : TState := (s.cp s.leadHalf).ts

/-- A follower is present and takes mirror updates. -/
def State.follower? (s : State) : Bool :=
  decide (s.role s.leadHalf.other = .follower) && !(s.cp s.leadHalf).silent

def State.post (s : State) (dest : Half) (m : Msg) : State :=
  { s with blk := { s.blk with saddle := s.blk.saddle ++ [(dest, m)] } }

/-- A change of the tenant state: applied at the lead, generation plus one, and a mirror update sent to a follower
that is present (R277). -/
def State.changeTs (s : State) (f : TState → TState) : State :=
  let h := s.leadHalf
  let s1 := s.modCp h fun k => { k with ts := { f k.ts with gen := k.ts.gen + 1 } }
  if s.follower? then s1.post h.other .mirror else s1

/-- The half that serves core c. -/
def State.servedBy (s : State) (c : Nat) : Half := s.blk.served.getD c .west

/-- The tenant of a BIND that has taken core c and has not yet completed: the core is its tenant's from that moment on, whatever
the copies of the tenant state still record (R268, R273). -/
def State.takenBy (s : State) (c : Nat) : Option Nat :=
  (s.blk.pkts.find? fun q =>
    (match q.st with | .running | .mirror _ => true | _ => false) && fld (q.words.headD 0) 63 56 == 0x10 && q.acted.contains c).map
    fun q => fld (q.words.headD 0) 47 44

/-- The tenant that a core is bound to, by a copy of the tenant state. -/
def State.bindIn (s : State) (ts : TState) (c : Nat) : Option Nat := (s.takenBy c).or (ts.bind.getD c none)

/-- The tenant a core is bound to, by the copy of the command processor that serves it. -/
def State.boundTo (s : State) (c : Nat) : Option Nat := s.bindIn (s.cp (s.servedBy c)).ts c

def TState.ten (x : TState) (t : Nat) : Tenant := x.tens.getD t .reset

def TState.modTen (x : TState) (t : Nat) (f : Tenant → Tenant) : TState := { x with tens := x.tens.modify t f }

def TState.setBind (x : TState) (c : Nat) (b : Option Nat) : TState := { x with bind := x.bind.set c b }

/-- Cores bound to tenant t, ascending. -/
def TState.coresOf (x : TState) (t : Nat) : List Nat :=
  (List.range x.bind.length).filter fun c => decide (x.bind.getD c none = some t)

/-- Half h deems the other side silent, which is not OFF, and the tenant holds a core that it serves, or one of the cores listed is:
h changes no tenant state for it before the resolution (R283). -/
def State.splitTenant (s : State) (h : Half) (t : Nat) (cs : List Nat) : Bool :=
  (s.cp h).silent && s.cpUp h.other
    && (cs ++ (s.cp h).ts.coresOf t).any fun c => decide (s.servedBy c = h.other)

/-! ### Interrupts, credits and replies (R239, R241 to R245) -/

def State.raiseIrq (s : State) (p i : Nat) : State :=
  s.modHp p fun h => { h with irq := h.irq ||| BitVec.ofNat 7 (1 <<< i) }

def State.creditBack (s : State) (p : Nat) : State :=
  (s.modHp p fun h => { h with credits := h.credits + 1 }).raiseIrq p 1

/-- The health interrupt of every port whose tenants mask holds the tenant (R341). -/
def State.healthIrq (s : State) (t : Nat) : State :=
  (List.range 8).foldl (fun s p => if (s.portTenants p).testBit t then s.raiseIrq p 6 else s) s

namespace Packet
variable (p : Packet)
def hdr : Word := p.words.headD 0
def arg (i : Nat) : Word := p.words.getD i 0
def opcode : Nat := fld p.hdr 63 56
def length : Nat := fld p.hdr 55 48
def tenant : Nat := fld p.hdr 47 44
def sequence : Nat := fld p.hdr 39 24
def opt : Bool := bitOf p.hdr 18
def quiet : Bool := bitOf p.hdr 17
def waitFlag : Bool := bitOf p.hdr 16
def opHdr : Nat := fld p.hdr 15 0
/-- The cores word of every command that names cores in word 1 (R253). -/
def coresMask : Nat := fld (p.arg 1) 31 0
end Packet

def State.pkt? (s : State) (id : Nat) : Option Packet := s.blk.pkts.find? (·.id == id)

def State.setPkt (s : State) (p : Packet) : State :=
  { s with blk := { s.blk with pkts := s.blk.pkts.map fun q => if q.id = p.id then p else q } }

def State.dropPkt (s : State) (id : Nat) : State :=
  { s with blk := { s.blk with pkts := s.blk.pkts.filter fun q => decide (q.id ≠ id) } }

/-- Reply word 0 (R243). -/
def replyWord (p : Packet) (status dkind detail : Nat) : Word :=
  word (put 63 56 status + put 55 40 p.sequence + put 39 36 p.tenant + put 35 32 dkind + put 31 0 detail)

/-- Word 1 is zero for every status other than OK, OK_EXCEPTIONS and FAULT_RETRIED (R243). -/
def carriesData (status : Nat) : Bool := status == 0x00 || status == 0x01 || status == 0x20

/-! ### Boundaries that a command waits for (R208) -/

/-- Hold the sequencer of core c for a boundary. -/
def State.holdCore (s : State) (c : Nat) : State := s.modCore c fun k => { k with run := { k.run with hold := true } }

def State.unholdCore (s : State) (c : Nat) : State := s.modCore c fun k => { k with run := { k.run with hold := false } }

/-- Opcodes that wait for a boundary of the cores they name. -/
def waitsAt (op : Nat) : Bool := [0x10, 0x11, 0x12, 0x13, 0x31, 0x60, 0x7F].contains op

/-- A packet that is not the one numbered id waits for the boundary of core c. -/
def State.wanted (s : State) (id c : Nat) : Bool :=
  s.blk.pkts.any fun q => decide (q.id ≠ id) && decide (q.st = .acting) && waitsAt q.opcode && q.todo.contains c

/-- A packet is done with cores: their sequencers start again, but for those that another packet waits for. -/
def State.letGo (s : State) (id : Nat) (cs : List Nat) : State :=
  cs.foldl (fun s c => if s.wanted id c then s else s.unholdCore c) s

/-- A reply whose command ends with FAULT_FENCED, dkind 0x0, instead. -/
def Reply.fenced (r : Reply) : Reply :=
  { r with w0 := (r.w0 &&& 0x00FFFFF000000000) ||| word (put 63 56 Status.faultFenced.code), w1 := 0, retries := 0 }

/-- SEAL at a boot port whose en reads 0: its reply is discarded whatever its status (R245, R367). -/
def State.sealSilent (s : State) (p : Packet) : Bool :=
  p.opcode == 0x71 && p.port == s.aon.bootPort.toNat && !(s.hp.getD p.port .reset).en

/-- The cores that a RELEASE has released go OFF at its completion (R311). -/
def State.releaseOff (s : State) (p : Packet) (w0 : Word) : State :=
  if p.opcode = 0x11 ∧ fld w0 63 56 = 0 then
    p.acted.foldl (fun s c => if s.domOn c then s.startDom c .off 1 else s) s
  else s

/-- End a packet with a reply: its cores go on, or OFF where it releases them, and the reply waits to be written, or where it is
a quiet OK or the discarded reply of SEAL returns its credit at once (R208, R241, R242, R245, R311). -/
def State.finish (s : State) (p : Packet) (w0 w1 : Word) : State :=
  let s1 := ((s.letGo p.id (p.todo ++ p.acted)).releaseOff p w0).dropPkt p.id
  if (p.quiet && fld w0 63 56 == 0) || s.sealSilent p then s1.creditBack p.port
  else { s1 with blk := { s1.blk with replies := s1.blk.replies ++ [⟨p.port, w0, w1, 0⟩] } }

def State.complete (s : State) (p : Packet) (st : Status) (dkind detail : Nat) (data : Word) : State :=
  s.finish p (replyWord p st.code dkind detail) (if carriesData st.code then data else 0)

/-! ### Merges and poison (R146, R165, R282) -/

/-- One merge into a tenant's sticky registers (R146): flags ORed, invalid drains counted, a first capture taken. -/
def Tenant.merge (x : Tenant) (e : LogEntry) : Tenant :=
  { x with
    flags := x.flags ||| e.flags
    invDrains := BitVec.ofNat 16 (satAdd 16 x.invDrains.toNat e.inv)
    cap := if bitOf x.cap 63 then x.cap else e.cap
    poison := x.poison || e.poison }

/-- One more entry in a pending log, one entry per tenant (R282). -/
def mergeLog (l : List LogEntry) (e : LogEntry) : List LogEntry :=
  if l.any (·.tenant == e.tenant) then
    l.map fun x => if x.tenant = e.tenant then
      { x with flags := x.flags ||| e.flags, inv := x.inv + e.inv
               cap := if bitOf x.cap 63 then x.cap else e.cap, poison := x.poison || e.poison } else x
  else l ++ [e]

/-- A merge or poison update made by a core that half h serves: the lead applies its own, a follower forwards it over the
Saddle link, and a CLAIMING side logs it (R146, R276, R282). While that half is off and the other has not yet adopted its
cores, the other side holds it in its log (log entry 19). -/
def State.mergeFrom (s : State) (h : Half) (e : LogEntry) : State :=
  match s.role h with
  | .claiming => s.modCp h fun k => { k with log := mergeLog k.log e }
  | .follower => s.post h.other (.merge e)
  | .lead => s.changeTs fun x => x.modTen e.tenant (·.merge e)
  | .off =>
    if s.aon.sealed && s.cfg.hasEast && decide (s.role h.other ≠ .lead) then
      s.modCp h.other fun k => { k with log := mergeLog k.log e }
    else s.changeTs fun x => x.modTen e.tenant (·.merge e)

/-- The policy pairs owner and guest for some image. -/
def State.pairs (s : State) (owner guest : Nat) : Bool :=
  (List.range 16).any fun i =>
    bitOf (s.share i) 63 && fld (s.share i) 59 56 == owner && (fld (s.share i) 15 0).testBit guest

/-- No merge of the tenant, or of a guest whose vectors its cores may drain, is on its way over the Saddle link (R117, R146). -/
def State.merged (s : State) (t : Nat) : Bool :=
  s.blk.saddle.all fun m => match m.2 with | .merge e => e.tenant != t && !s.pairs t e.tenant | _ => true

/-- Tenants whose step-poison bit a started instruction of a tenant's core is to set, the owner's first (R165). -/
def Flight.poisons (tenant : Nat) (f : Flight) : List Nat :=
  match f.work with
  | .drain d => (if d.out.poison then [tenant] else []) ++ (d.out.guestLog.filter (·.poison)).map (·.tenant)
  | .colPass _ _ _ _ p | .plainPass _ _ _ _ _ p _ => if p then [tenant] else []
  | _ => []

/-- A step-poison update of a pass (R165). -/
def State.poisonFrom (s : State) (c tenant : Nat) : State := s.mergeFrom (s.servedBy c) ⟨tenant, 0, 0, 0, true⟩

/-- What the checks of instructions of core c have seen reaches the step-poison bits although these come to no merge and no
retirement of their own (R165). -/
def State.mergePoison (s : State) (c tenant : Nat) (fs : List Flight) : State :=
  (fs.flatMap (Flight.poisons tenant)).foldl (fun s t => s.poisonFrom c t) s

/-! ### Skews (R92, R76, R210) -/

/-- The physical number of logical row or column i, the excluded numbers given in ascending order (R92). -/
def physOf (ex : List Nat) (i : Nat) : Nat := ex.foldl (fun p x => if x ≤ p then p + 1 else p) i

/-- The physical engine that runs logical engine e of a Col core: a survivor runs both (R210). -/
def Core.physEng (k : Core) (e : Nat) : Nat :=
  if k.rep.fenced.toNat.testBit e then 1 - e else e

def Core.skewRow (k : Core) (i : Nat) : Nat := physOf k.rep.rowsEx i
def Core.skewCol (k : Core) (e i : Nat) : Nat := physOf (k.rep.colsEx.getD (k.physEng e) []) i

/-- The cell map g of R76. -/
def cellOf (wide : Bool) (x : Nat) : Nat := if wide then x else x / 2

/-- Positions a line holds: 256 in narrow mode, 128 in wide mode (R76). -/
def lineElems (wide : Bool) : Nat := if wide then 128 else 256

/-- Largest skew among the first n output rows or columns of a pass; 0 where there are none. -/
def maxSkew (wide : Bool) (sk : Nat → Nat) (n : Nat) : Nat := if n = 0 then 0 else sk (cellOf wide (n - 1))

/-! ### Running programs (R194) -/

/-- A core runs a program, no ending is set, and nothing holds its sequencer: no boundary is waited for by a command, a tap
change, a repair or a remap, a tap change has settled for its 16 beats, and no stopped pass waits for its replay (R208, R326,
R338, R377). -/
def Core.starting (k : Core) : Bool :=
  decide (k.run.state = .running) && !k.run.hold && k.run.ending.isNone && k.rep.stopped.isEmpty && k.rep.defect.isEmpty
    && !k.rep.tapPending && k.rep.tapBeats == 0 && k.rep.remap.isEmpty

/-- Set the status that ends the program once its started instructions have retired (R194); the first stands. -/
def Core.endWith (k : Core) (st : Status) (idx : Nat) : Core :=
  { k with run := { k.run with ending := some (k.run.ending.getD (BitVec.ofNat 8 st.code, idx)) } }

def Core.flight? (k : Core) (f : Nat) : Option Flight := k.flight.find? (·.id == f)

def Core.setFlight (k : Core) (x : Flight) : Core :=
  { k with flight := k.flight.map fun y => if y.id = x.id then x else y }

/-- Retire a started instruction. -/
def Core.retire (k : Core) (f : Nat) : Core := { k with flight := k.flight.filter fun y => decide (y.id ≠ f) }


/-- An automatic spill or refill is under way: the feeders issue nothing and the engines stand still (R86). -/
def Core.autoMove (k : Core) : Bool :=
  k.flight.any fun f => match f.work with | .spill _ _ _ a => a | .refill _ _ _ _ a => a | _ => false

/-- Multiply beats that a started instruction has left. -/
def Flight.beats (f : Flight) : Nat :=
  match f.work with
  | .colPass _ _ _ b _ => b
  | .plainPass _ _ _ _ b _ _ => b
  | _ => 0

/-- The same with n beats left. -/
def Flight.withBeats (n : Nat) (f : Flight) : Flight :=
  match f.work with
  | .colPass e t w _ p => { f with work := .colPass e t w n p }
  | .plainPass r t l g _ p bad => { f with work := .plainPass r t l g n p bad }
  | _ => f

/-- A Plain pass that has multiply beats left: its page is the core's current page (R15). -/
def Flight.reads (f : Flight) : Bool :=
  match f.work with
  | .plainPass _ _ _ _ b _ _ => decide (0 < b)
  | _ => false

/-- A command row of a unit that the configuration does not build stops (log entry 9). -/
def noUnit : Out := .fault .noSuchUnit

/-- Core c of the block. -/
def State.core (s : State) (c : Nat) : Core := s.blk.cores.getD c .reset

/-- A command of core c. -/
def coreCmd (s : State) (c : Nat) (f : Core → State) : Out :=
  if c < s.cfg.nCores then .next (f (s.core c)) else noUnit

/-- A command of the command processor of half h. -/
def halfCmd (s : State) (h : Half) (f : State) : Out := if s.hasCp h then .next f else noUnit

/-- A command at host port p. -/
def portCmd (s : State) (p : Nat) (f : HostPort → State) : Out :=
  if p < 8 then .next (f (s.hp.getD p .reset)) else noUnit

/-- The first message for half h that `sel` accepts, and the state without it. -/
def State.takeMsg {α : Type} (s : State) (h : Half) (sel : Msg → Option α) : Option (α × State) :=
  let hit := fun (m : Half × Msg) => decide (m.1 = h) && (sel m.2).isSome
  match s.blk.saddle.find? hit with
  | none => none
  | some m => (sel m.2).map fun a => (a, { s with blk := { s.blk with saddle := s.blk.saddle.eraseP hit } })

end Sys2Proof.Machine
end

