-- ==== Sys2Proof/Machine/Stage.lean ====
section
/-! DEFINITION. Chain lists, stage entries and the element-wise stages (R148 to R169). -/

namespace Sys2Proof.Machine

/-! ### Header word of a chain list (R149) -/

def chTarget (h : Word) : Nat := fld h 55 53
def chWide (h : Word) : Bool := bitOf h 52
def chInFmt (h : Word) : Nat := fld h 51 48
def chOutFmt (h : Word) : Nat := fld h 47 44
def chOutRnd (h : Word) : Nat := fld h 43 42
def chOutOvf (h : Word) : Bool := bitOf h 41
def chOutFlush (h : Word) : Bool := bitOf h 40

/-- Working format of a list (R149, R154). -/
def chFmt (h : Word) : Fmt := if chWide h then .b64 else .b32

/-! ### Stage entries (R150) -/

/-- Words A and B of a stage entry. -/
abbrev Stage := Word × Word

namespace Stage
variable (g : Stage)
def code : Nat := fld g.1 63 59
def rndCode : Nat := fld g.1 58 57
def ovf : Bool := bitOf g.1 56
def flush : Bool := bitOf g.1 55
def fmtCode : Nat := fld g.1 54 51
def sel : Nat := fld g.1 50 48
def bank : Nat := fld g.1 47 47
def count : Nat := fld g.1 43 32
def addr : Nat := fld g.1 31 0
def c1 : Nat := fld g.2 63 32
def c0 : Nat := fld g.2 31 0
def rnd : Rnd := (Rnd.ofCode g.rndCode).getD .rne
def fmt : Fmt := (Fmt.ofCode g.fmtCode).getD .b32
/-- The stage's codes as a rounding mode; a field that the stage does not use is zero. -/
def mode : RMode := ⟨g.rnd, !g.ovf, g.flush⟩
end Stage

/-! Stage codes (Table — Stage codes). -/

def cSCALE : Nat := 0x01
def cBIASROW : Nat := 0x02
def cBIASCOL : Nat := 0x03
def cACT : Nat := 0x04
def cCLAMP : Nat := 0x05
def cRESIDUAL : Nat := 0x06
def cROWSTAT : Nat := 0x07
def cROWAPPLY : Nat := 0x08
def cONLINE : Nat := 0x09
def cREDROWS : Nat := 0x0A
def cREDCOLS : Nat := 0x0B
def cCONVERT : Nat := 0x0C
def cPOISON : Nat := 0x0D
def cDEQUANT : Nat := 0x0E
def cMASK : Nat := 0x0F
def cDROPOUT : Nat := 0x10

/-- Entries up to the first END (R151). -/
def stagePairs : List Word → List Stage
  | a :: b :: t => if fld a 63 59 = 0 then [] else (a, b) :: stagePairs t
  | _ => []

def stagesOf (l : List Word) : List Stage := stagePairs (l.drop 1)

/-! ### Activation functions (R166 to R169): every operation binary32 under RNE, internal flags discarded -/

def qadd (a b : FV) : FV := (fadd .b32 {} a b).1
def qmul (a b : FV) : FV := (fmul .b32 {} a b).1
def qsub (a b : FV) : FV := qadd a b.neg
def one : FV := b32 0x3F800000

/-- T[j] of R167: the binary32 value nearest to 2^(j/32). -/
def expTable : List Nat :=
  [0x3F800000, 0x3F82CD87, 0x3F85AAC3, 0x3F88980F, 0x3F8B95C2, 0x3F8EA43A, 0x3F91C3D3, 0x3F94F4F0,
   0x3F9837F0, 0x3F9B8D3A, 0x3F9EF532, 0x3FA27043, 0x3FA5FED7, 0x3FA9A15B, 0x3FAD583F, 0x3FB123F6] ++
  [0x3FB504F3, 0x3FB8FBAF, 0x3FBD08A4, 0x3FC12C4D, 0x3FC5672A, 0x3FC9B9BE, 0x3FCE248C, 0x3FD2A81E,
   0x3FD744FD, 0x3FDBFBB8, 0x3FE0CCDF, 0x3FE5B907, 0x3FEAC0C7, 0x3FEFE4BA, 0x3FF5257D, 0x3FFA83B3]

/-- The integer nearest a value, ties to even. -/
def nearestInt : FV → Int
  | .fin neg m e => let y : Int := roundQuanta m e 0 .rne 0; if neg then -y else y
  | _ => 0

/-- s * 2^m rounded once into binary32. -/
def scaleBy (s : FV) (m : Int) : FV :=
  match s with
  | .fin n k e => (roundInto .b32 {} 0 (.fin n k (e + m))).1
  | v => v

/-- EXP of R167. -/
def expV : FV → FV
  | .nan _ => .nan false
  | .inf false => .inf false
  | .inf true => .zero false
  | x =>
    if (b32 0x42B17217).lt x then .inf false
    else if x.lt (b32 0xC2CFF1B5) then .zero false
    else
      let n := nearestInt (qmul x (b32 0x4238AA3B))
      let t := qmul (.ofInt n) (b32 0x3CB18000)
      let r1 := qsub x t
      let u := qmul (.ofInt n) (b32 0xB6DE8087)
      let r := qsub r1 u
      let a2 := qadd (qmul r (b32 0x3E2AAAAB)) (b32 0x3F000000)
      let p := qadd r (qmul (qmul r r) a2)
      let tj := b32 (expTable.getD (n % 32).toNat 0)
      scaleBy (qadd tj (qmul tj p)) (n / 32)

/-- recip of R168. -/
def recipV (x : FV) : FV := (fdiv one x).1

def withSign (neg : Bool) (v : FV) : FV := if neg then v.abs.neg else v.abs

/-- TANH of R169. -/
def tanhV (x : FV) : FV :=
  if x.isNan then .nan false
  else if !x.abs.lt (b32 0x41200000) then withSign x.isNeg one
  else if x.abs.lt (b32 0x3E800000) then
    let z := qmul x x
    let a := qadd (qmul (b32 0x3CB327A4) z) (b32 0xBD5D0DD1)
    let a := qadd (qmul a z) (b32 0x3E088889)
    let a := qadd (qmul a z) (b32 0xBEAAAAAB)
    qadd x (qmul (qmul a z) x)
  else
    let e := expV (qmul (b32 0xC0000000) x.abs)
    withSign x.isNeg (fdiv (qsub one e) (qadd one e)).1

/-- SILU of R169. -/
def siluV : FV → FV
  | .inf false => .inf false
  | .inf true => .zero true
  | x => (fdiv x (qadd one (expV x.neg))).1

/-- GELU_TANH of R169. -/
def geluV : FV → FV
  | .inf false => .inf false
  | .inf true => .zero true
  | x =>
    let z := qmul x x
    let v := qmul (qmul z (b32 0x3D372713)) x
    let y := qmul (qadd x v) (b32 0x3F4C422A)
    qmul (qmul x (qadd (tanhV y) one)) (b32 0x3F000000)

/-- relu of R168. -/
def reluV : FV → FV
  | .fin false m e => .fin false m e
  | .inf false => .inf false
  | .nan _ => .nan false
  | _ => .zero false

def FV.isFin : FV → Bool
  | .fin _ _ _ => true
  | _ => false


/-- A zero or subnormal binary32 value. -/
def tinyB32 : FV → Bool
  | .zero _ => true
  | .fin _ m e => magLt m e 1 (-126)
  | _ => false

/-- The stage ACT (R166): result and flags. A flush of recip's result raises underflow and inexact, as every flush does (R51,
R54). -/
def actStage (sel : Nat) (fl : Bool) (v : FV) : FV × Flags :=
  let x := flushIn .b32 fl v
  if x.isNan then (.nan false, { invalid := x.sig })
  else
    let d := fdiv one x
    let y :=
      match sel with
      | 0 => reluV x
      | 1 => geluV x
      | 2 => siluV x
      | 3 => tanhV x
      | 4 => expV x
      | _ => d.1
    let ovfl := !x.isInf && y.isInf
    let fs : Flags :=
      match sel with
      | 0 => {}
      | 5 =>
        let cut := fl && y.isFin && tinyB32 y
        { overflow := ovfl, underflow := d.2.underflow || cut, inexact := d.2.inexact || cut }
      | _ => { overflow := ovfl, underflow := x.isFin && tinyB32 y, inexact := x.isFin }
    (flushIn .b32 fl y, fs)

/-! ### Vectors and the element-wise stages (R160 to R164) -/

/-- Element x of the stage's vector, widened exactly (R161). -/
def Stage.vec (g : Stage) (m : Mem) (x : Nat) : FV :=
  decodeElem g.fmt false 0 (m.num (g.addr + x * g.fmt.bytes) g.fmt.bytes)

/-- Whether MASK keeps element (i, j) (R162). -/
def Stage.kept (g : Stage) (m : Mem) (i j : Nat) : Bool :=
  match g.sel with
  | 0 => decide ((j : Int) ≤ i + signedOf 32 g.c0)
  | 1 => (m.rd (g.addr + i * g.count + j / 8)).toNat.testBit (j % 8)
  | _ => decide ((j : Int) < signedOf 32 (m.num (g.addr + 4 * i) 4) + signedOf 32 g.c0)

/-- CLAMP of R161. -/
def clampStage (wf : Fmt) (g : Stage) (v : FV) : FV × Flags :=
  if v.isNan then (.nan false, { invalid := v.sig })
  else
    let lo := flushIn wf g.flush (b32 g.c0)
    let hi := flushIn wf g.flush (b32 g.c1)
    let x := flushIn wf g.flush v
    (if x.lt lo then lo else if hi.lt x then hi else x, {})

/-- The value of a bank row's recip(s1) (R161 sel 011). -/
def BankRow.recipS1 (b : BankRow) : FV := recipV (b32 b.s1.toNat)

/-- One element-wise stage on a present element (R160 to R163): `m` the core's store, `b` the named bank row, `draw` the
draw at the stage's position, `src` the format whose subnormals a CONVERT's flush takes for zero (R32), none where an exact
value comes to it unrounded (R155). Stages that work on rows leave the element as it is. DROPOUT has no ovf field; its zero
is read as SAT (DESIGN CHOICE, log entry 31). -/
def Stage.apply (g : Stage) (wf : Fmt) (src : Option Fmt) (m : Mem) (b : BankRow) (i j draw : Nat) (v : FV) : FV × Flags :=
  match g.code with
  | 0x01 =>
    let k :=
      match g.sel with
      | 0 => b32 g.c0
      | 1 => g.vec m i
      | 2 => g.vec m j
      | _ => b.recipS1
    fmul wf g.mode v k
  | 0x02 => fadd wf g.mode v (g.vec m j)
  | 0x03 => fadd wf g.mode v (g.vec m i)
  | 0x04 => actStage g.sel g.flush v
  | 0x05 => clampStage wf g v
  | 0x06 =>
    let r := decodeElem g.fmt false 0 (m.num (g.addr + 64 * g.count * i + j * g.fmt.bytes) g.fmt.bytes)
    if g.sel = 1 then
      let t := fmul wf g.mode (b32 b.alpha.toNat) r
      let s := fadd wf g.mode v t.1
      (s.1, s.2.or t.2)
    else fadd wf g.mode v r
  | 0x0C =>
    let c := convert g.fmt g.rnd (!g.ovf) g.flush draw (match src with | some f => flushIn f g.flush v | none => v)
    (decodeElem g.fmt false 0 c.1, c.2)
  | 0x0F => if g.kept m i j then (v, {}) else (b32 g.c1, {})
  | 0x10 => if draw < g.c0 % 65536 then fmul wf g.mode v (b32 g.c1) else (.zero false, {})
  | _ => (v, {})

/-- Whether POISON_CHECK sets the step-poison bit on a present value (R165). -/
def Stage.poisons (g : Stage) (v : FV) : Bool := v.isNan || (g.sel == 1 && v.isInf)

end Sys2Proof.Machine
end

