-- ==== Sys2Proof/Machine/Operands.lean ====
section
/-! DEFINITION. Operand forms: elements of skewed images, activation vectors and weight pages, prologue lists, pieces and
complex parts (R76, R98, R102, R122 to R124, R126, R136, R157). -/

namespace Sys2Proof.Machine

/-- Bits per element position of a format: 4 for DQ4 (R164). -/
def posBits (f : Fmt) : Nat := f.bits

/-- The code at element position p of a line of format f that starts at a: element 2q of a DQ4 line lies in the low half of
byte q (R164). -/
def codeAt (m : Mem) (f : Fmt) (a p : Nat) : Nat :=
  if f = .dq4 then
    let b := (m.rd (a + p / 2)).toNat
    if p % 2 = 0 then b % 16 else b / 16
  else m.num (a + p * f.bytes) f.bytes

/-- What reading one operand element through its prologue list gives: the code in the operand's format, invalid and
overflow of the stages and the delivery, and whether a POISON_CHECK fired (R157, R165). -/
structure Delivered where
  code : Nat
  fmt : Fmt
  fl : Flags
  poison : Bool
  deriving DecidableEq, Repr, Inhabited

/-- A value on its way through a prologue: the value, the format it is held in, flags, and whether a POISON_CHECK fired. -/
structure ProVal where
  val : FV
  fmt : Fmt
  fl : Flags
  poison : Bool
  deriving DecidableEq, Repr, Inhabited

/-- Formats some values of which binary32 does not hold: their elements are rounded once into binary32 on entry to the first
stage that computes, unless it is a CONVERT, which then rounds the exact value itself (R49, R157; by R155's pattern, DESIGN
CHOICE, log entry 31). -/
def Fmt.entersRounded (f : Fmt) : Bool := decide (f = .b64) || decide (f = .int32)

/-- One stage of a prologue list; `md` the list's delivery codes, under which an entry rounding is made. -/
def proStage (m : Mem) (md : RMode) (i j : Nat) (x : ProVal) (g : Stage) : ProVal :=
  if g.code = cPOISON then { x with poison := x.poison || g.poisons x.val }
  else
    let e := if x.fmt = .b32 ∨ g.code = cCONVERT then (x.val, ({} : Flags)) else roundInto .b32 md 0 x.val
    let r := g.apply .b32 (some x.fmt) m default i j 0 e.1
    ⟨r.1, .b32, (x.fl.or e.2).or r.2, x.poison⟩

/-- Run the stages of a prologue list on one value held in format f. -/
def prologueStages (m : Mem) (md : RMode) (i j : Nat) (gs : List Stage) (f : Fmt) (v : FV) : ProVal :=
  gs.foldl (proStage m md i j) ⟨v, f, {}, false⟩

/-- Only invalid and overflow of a prologue are recorded (R157). -/
def Flags.io (f : Flags) : Flags := { invalid := f.invalid, overflow := f.overflow }

/-- One operand element through a prologue list (R157): `i`, `j` the tile coordinates, `r`, `k` the row and reduction index
of DEQUANT (R164). An empty list delivers the code unchanged (R151). -/
def deliver (m : Mem) (list : List Word) (opFmt : Fmt) (i j r k code : Nat) : Delivered :=
  if list.isEmpty then ⟨code, opFmt, {}, false⟩
  else
    let h := list.headD 0
    let inF := (Fmt.ofCode (chInFmt h)).getD opFmt
    let gs := stagesOf list
    if gs.isEmpty then ⟨code, opFmt, {}, false⟩
    else
      let deq := gs.head?.filter (fun g => decide (g.code = cDEQUANT))
      let v :=
        match deq with
        | some g => decodeElem inF false (m.rd (g.addr + r * g.count + k / 32)).toNat code
        | none => decodeElem inF false 0 code
      let md : RMode := ⟨(Rnd.ofCode (chOutRnd h)).getD .rne, !chOutOvf h, chOutFlush h⟩
      let s := prologueStages m md i j (if deq.isSome then gs.drop 1 else gs) (if inF.entersRounded then inF else .b32) v
      let c := convert opFmt md.rnd md.sat md.fl 0 (flushIn s.fmt md.fl s.val)
      ⟨c.1, opFmt, (s.fl.or c.2).io, s.poison⟩

/-- The format a stream's image holds: in_fmt of a non-empty list, else the operand format (R149, R151). -/
def imageFmt (list : List Word) (opFmt : Fmt) : Fmt :=
  if list.isEmpty then opFmt else (Fmt.ofCode (chInFmt (list.headD 0))).getD opFmt

/-! ### Pieces (R122, R123, R125) -/

/-- Pieces per operand of a format on the Col side, and whether its passes are wide (R66, R125). -/
def colPieces : Fmt → Nat
  | .b32 | .b64 => 3
  | _ => 1

def wideFmt : Fmt → Bool
  | .b16 | .int16 | .b64 => true
  | _ => false

/-- Pieces per operand of a format on the Plain side (Table — Plans by format and side). -/
def plainPieces : Fmt → Nat
  | .b16 | .int16 => 2
  | .b32 => 3
  | _ => 1

/-- Integer formats of operands. -/
def isIntFmt : Fmt → Bool
  | .int8 | .uint8 | .int16 | .int32 => true
  | _ => false

/-- Lowest bit and width of piece i of a significand, by format and side (Table — Piece cuts); none where the format is not
cut. -/
def pieceCut (f : Fmt) (col : Bool) (i : Nat) : Option (Nat × Nat) :=
  match f, col, i with
  | .b16, false, 0 => some (3, 8)
  | .b16, false, _ => some (0, 3)
  | .int16, false, 0 => some (8, 8)
  | .int16, false, _ => some (0, 8)
  | .b32, _, 0 => some (16, 8)
  | .b32, _, 1 => some (8, 8)
  | .b32, _, _ => some (0, 8)
  | .b64, _, 0 => some (35, 18)
  | .b64, _, 1 => some (17, 18)
  | .b64, _, _ => some (0, 17)
  | _, _, _ => none

/-- The significand M and scale g of a decoded operand of a piece plan (R122): floats carry the precision's scale, integers
scale 0; `m * 2^e` is the value the decoder gives, whose exponent is already g. -/
def pieceOf (f : Fmt) (col : Bool) (i : Nat) (v : FV) : FV :=
  match pieceCut f col i with
  | none => v
  | some (lo, w) =>
    match v with
    | .fin n m e =>
      let p := m >>> lo % 2 ^ w
      if p = 0 then .zero n else .fin n p (e + lo)
    | v => v

/-- An operand in a lane: the whole value and the piece it presents. -/
structure Opnd where
  whole : FV
  piece : FV
  deriving DecidableEq, Repr, Inhabited

/-- The exact product of a lane and whether it is invalid; none where a special operand adds nothing because the step does
not pair piece 0 with piece 0 (R123). -/
def laneProduct (first : Bool) (a b : Opnd) : Option (FV × Bool) :=
  if a.whole.isNan || a.whole.isInf || b.whole.isNan || b.whole.isInf then
    if first then some (mulExact a.whole b.whole) else none
  else some (mulExact a.piece b.piece)

/-! ### Images in the Col core store (R76, R136) -/

/-- Line pitch of an operand image: positions at the format's width, doubled for complex (R76, R136). -/
def linePitch (wide cplx : Bool) (f : Fmt) : Nat :=
  lineElems wide * posBits f / 8 * (if cplx then 2 else 1)

/-- Element at position p of K index k, skewed by `sk`, part `im` of a complex image (R76, R136). -/
def imageCode (m : Mem) (addr : Nat) (wide cplx im : Bool) (f : Fmt) (sk p k : Nat) : Nat :=
  codeAt m f (addr + (k + sk) * linePitch wide cplx f) (p + if im then lineElems wide else 0)

/-- A row of operands along K with the flags of its prologue. -/
structure OpRow where
  ops : List Opnd
  fl : Flags
  poison : Bool
  deriving DecidableEq, Repr, Inhabited

/-- Operands of one output row (row = true) or column of a Col pass, for k below the limit (R76, R81, R122, R157). -/
def colOpRow (m : Mem) (list : List Word) (addr : Nat) (wide cplx im flush row : Bool) (f : Fmt) (piece sk p kLim : Nat) :
    OpRow :=
  let ds := (List.range kLim).map fun k =>
    deliver m list f (if row then p else k) (if row then k else p) p k
      (imageCode m addr wide cplx im (imageFmt list f) sk p k)
  { ops := ds.map fun d =>
      let v := decodeElem f flush 0 d.code
      ⟨v, pieceOf f true piece v⟩
    fl := ds.foldl (fun a d => a.or d.fl) {}
    poison := ds.any (·.poison) }

/-! ### Weight pages (R97, R98, R126) and activation vectors (R102, R136) -/

/-- Storage class of a weight format: 0 4-bit, 1 8-bit, 2 16-bit or 2-byte piece, 3 4-byte piece (R97, R201). -/
def classOf : Fmt → Nat
  | .dq4 => 0
  | .df16 | .b16 | .int16 => 2
  | .b32 => 3
  | _ => 1

/-- Byte address in the plane of a page of a class (R97, R126). -/
def pageAddr (cls page : Nat) : Nat := if cls = 0 then 16384 * page else 32768 * page

/-- Slots a page of a class occupies, as record keys: 2 j for slot j, with 2 j + 1 for the upper half of a slot of 4-bit
pages (R97, R100, R126). -/
def pageSlots (cls page : Nat) : List Nat :=
  match cls with
  | 0 => [page / 2]
  | 1 => [page]
  | 2 => [page, page + 1]
  | _ => [page, page + 1, page + 2, page + 3]

/-- Bytes of a page of a class. -/
def pageBytes : Nat → Nat
  | 0 => 16384
  | 1 => 32768
  | 2 => 65536
  | _ => 131072

/-- Weight element (k, n) of a page, as an exact value before pieces; `blk` its scale byte (R41, R98). -/
def weightAt (pl : Mem) (f : Fmt) (flush : Bool) (page blk k n : Nat) : FV :=
  let a := pageAddr (classOf f) page
  let code :=
    if f = .dq4 then
      let b := (pl.rd (a + 256 * n + 16 * (k / 32) + k % 32 / 2)).toNat
      if k % 2 = 0 then b % 16 else b / 16
    else pl.num (a + f.bytes * (64 * k + n)) f.bytes
  decodeElem f flush blk code

/-- Address of element `idx` of vector i of a batch: base of the Ford, header line, pitch (R102); complex elements take two
positions (R136). -/
def vecAddr (base pitch i : Nat) : Nat := base + 64 + i * pitch

/-- Activation element: position p of vector i through the Plain prologue (R102, R157). `j` is the index within the pass and
`kAbs` the index from the start of the vector. -/
def actElem (m : Mem) (list : List Word) (f : Fmt) (flush : Bool) (base pitch i pos j kAbs : Nat) : FV × Delivered :=
  let inF := imageFmt list f
  let d := deliver m list f i j i kAbs (codeAt m inF (vecAddr base pitch i) pos)
  (decodeElem f flush 0 d.code, d)

end Sys2Proof.Machine
end

