-- ==== Sys2Proof/Machine/ColPass.lean ====
section
/-! DEFINITION. What one Col pass adds into a Basin slot (R65 to R74, R80 to R83, R122 to R132, R137, R142, R143). -/

namespace Sys2Proof.Machine

/-- What the adds of one element leave: the accumulator's code, overflow, and the first K index that raised invalid. -/
structure LaneSum where
  code : Nat
  ovf : Bool
  inv : Option Nat
  deriving DecidableEq, Repr, Inhabited

/-- The products of one lane in K order, each with its K index; `neg` is cneg (R137). Steps that add nothing are left out. -/
def laneProducts (first neg : Bool) (a b : List Opnd) : List (Nat × FV × Bool) :=
  ((List.range a.length).zip (a.zip b)).filterMap fun x =>
    (laneProduct first x.2.1 x.2.2).map fun p => (x.1, if neg then p.1.neg else p.1, p.2)

/-- Add products into a binary32 accumulator in K order (R70, R71). -/
def sumF32 (acc : Nat) (ps : List (Nat × FV × Bool)) : LaneSum :=
  let r := ps.foldl (fun (st : FV × Bool × Option Nat) p =>
    let s := fadd .b32 {} st.1 p.2.1
    (s.1, st.2.1 || s.2.overflow, st.2.2.or (if p.2.2 || s.2.invalid then some p.1 else none)))
    (b32 acc, false, none)
  ⟨toB32 r.1, r.2.1, r.2.2⟩

/-- One INT32 add under an overflow code: the result and whether it saturated or wrapped (R31, R72). -/
def addI32 (sat : Bool) (a p : Int) : Int × Bool :=
  let s := a + p
  if 2147483647 < s ∨ s < -2147483648 then
    (if sat then (if 0 < s then 2147483647 else -2147483648) else signedOf 32 (intCode 32 s), true)
  else (s, false)

/-- The integer an integer-valued exact value holds. -/
def FV.toInt : FV → Int
  | .fin n m e => let k : Int := (m <<< e.toNat : Nat); if n then -k else k
  | _ => 0

/-- Add products into an INT32 accumulator in K order (R72). -/
def sumI32 (sat : Bool) (acc : Nat) (ps : List (Nat × FV × Bool)) : LaneSum :=
  let r := ps.foldl (fun (st : Int × Bool) p =>
    let s := addI32 sat st.1 p.2.1.toInt
    (s.1, st.2 || s.2)) (signedOf 32 acc, false)
  ⟨intCode 32 r.1, r.2, none⟩

/-- DW_ADD of R131: the pair, overflow and invalid. `bad` says that p came from an invalid product. -/
def dwAdd (hi lo p : FV) (bad : Bool) : FV × FV × Bool × Bool :=
  let z : FV := .zero false
  if hi.isNan || p.isNan then (.nan false, z, false, bad)
  else
    match hi, p with
    | .inf a, .inf b => if a == b then (.inf a, z, false, false) else (.nan false, z, false, true)
    | .inf a, _ => (.inf a, z, false, false)
    | _, .inf b => (.inf b, z, false, false)
    | _, _ =>
      let add := fun x y => (fadd .b64 {} x y).1
      let sub := fun (x y : FV) => (fadd .b64 {} x y.neg).1
      let s := add hi p
      let bp := sub s hi
      let ap := sub s bp
      let e := add (sub hi ap) (sub p bp)
      let t := add lo e
      let h2 := add s t
      let l2 := sub t (sub h2 s)
      if s.isInf || h2.isInf then (if s.isInf then s else h2, z, true, false) else (h2, l2, false, false)

/-- A double-word code: high binary64 in bits 127:64, low in 63:0 (R87). -/
def dwCode (hi lo : FV) : Nat := toB64 hi * 2 ^ 64 + toB64 lo
def dwHi (c : Nat) : FV := decodeElem .b64 false 0 (c / 2 ^ 64 % 2 ^ 64)
def dwLo (c : Nat) : FV := decodeElem .b64 false 0 (c % 2 ^ 64)

/-- Add products into a double-word float accumulator in K order (R130, R131). -/
def sumDwf (acc : Nat) (ps : List (Nat × FV × Bool)) : LaneSum :=
  let r := ps.foldl (fun (st : (FV × FV) × Bool × Option Nat) p =>
    let d := roundInto .b64 {} 0 p.2.1
    let q := dwAdd st.1.1 st.1.2 d.1 p.2.2
    ((q.1, q.2.1), st.2.1 || q.2.2.1 || (p.2.1.isFin && d.2.overflow),
      st.2.2.or (if q.2.2.2 then some p.1 else none)))
    ((dwHi acc, dwLo acc), false, none)
  ⟨dwCode r.1.1 r.1.2, r.2.1, r.2.2⟩

/-- Add products into a 128-bit integer accumulator (R132). -/
def sumDwi (acc : Nat) (ps : List (Nat × FV × Bool)) : LaneSum :=
  ⟨intCode 128 (ps.foldl (fun st p => st + p.2.1.toInt) (signedOf 128 acc)), false, none⟩

def sumKind (kind : AccKind) (sat : Bool) (acc : Nat) (ps : List (Nat × FV × Bool)) : LaneSum :=
  match kind with
  | .f32 => sumF32 acc ps
  | .i32 => sumI32 sat acc ps
  | .dwf => sumDwf acc ps
  | .dwi => sumDwi acc ps

/-! ### Parameters of a pass -/

/-- The operand format of the row stream. -/
def TI.fA (t : TI) : Fmt := (Fmt.ofCode t.fmtA).getD .df8
def TI.fB (t : TI) : Fmt := (Fmt.ofCode t.fmtB).getD .df8
/-- Wide mode (R66). -/
def TI.wide (t : TI) : Bool := wideFmt t.fA

/-- Accumulator kind of a Col pass (R66, R125). -/
def TI.colKind (t : TI) : AccKind :=
  if t.wide then (if isIntFmt t.fA then .dwi else .dwf) else if isIntFmt t.fA then .i32 else .f32

/-- Place of a piece pair in the Col plan cycle (R127). -/
def colStep (pieces a b : Nat) : Nat :=
  if pieces = 1 then 0
  else ([(2, 2), (2, 1), (1, 2), (2, 0), (1, 1), (0, 2), (1, 0), (0, 1), (0, 0)] : List (Nat × Nat)).findIdx (· == (a, b))

/-- Step of the cycle that an OPASS carries: piece pair outer, complex step inner (R127, R137). -/
def TI.colCycleStep (t : TI) : Nat :=
  let p := colStep (colPieces t.fA) t.pieceA t.pieceB
  if t.oCplx then 2 * p + t.cpartA.toNat else p

/-- Steps in the cycle of an OPASS. -/
def TI.colCycle (t : TI) : Nat := (if colPieces t.fA = 3 then 9 else 1) * (if t.oCplx then 2 else 1)

/-- Logical engines an OPASS or BDRAIN names (R68). -/
def TI.engines (t : TI) : List Nat := if t.engSel = 2 then [0, 1] else [t.engSel % 2]

/-- Fields of an OPASS for logical engine e: a single pass takes the engine-0 fields (R199). -/
def TI.forEng1 (t : TI) (e : Nat) : Bool := t.engSel == 2 && e == 1
def TI.tagOf (t : TI) (e : Nat) : Nat := if t.forEng1 e then t.oTag1 else t.oTag
def TI.nExtOf (t : TI) (e : Nat) : Nat := if t.forEng1 e then t.nExt1 else t.nExt
def TI.nLimOf (t : TI) (e : Nat) : Nat := if t.forEng1 e then t.oNLim1 else t.oNLim
def TI.bAddrOf (t : TI) (e : Nat) : Nat := if t.forEng1 e then t.b1Addr else t.bAddr
def TI.cpartBOf (t : TI) (e : Nat) : Bool := if t.forEng1 e then t.cpartB1 else t.cpartB
def TI.cnegOf (t : TI) (e : Nat) : Bool := if t.forEng1 e then t.cneg1 else t.cneg

/-! ### Exception state (R73, R74, R143, R145) -/

/-- The capture word (Table — CP_STICKY_CAP). -/
def capWord (core eng step src row col kpos : Nat) : Word :=
  word (1 <<< 63 + put 62 58 core + put 57 56 eng + put 55 50 step + put 49 48 src + put 47 39 row + put 38 30 col
    + put 29 0 (min kpos 0x3FFFFFFF))

/-- exc_state with acc_flags ORed in: [12] invalid, [13] overflow (R143). -/
def excOr (w : Word) (inv ovf : Bool) : Word :=
  w ||| word (inv.toNat * 2 ^ 12 + ovf.toNat * 2 ^ 13)

/-- The least of the captured places (k, row, column) (R74, R109). -/
def firstPlace (l : List (Nat × Nat × Nat)) : Option (Nat × Nat × Nat) :=
  l.foldl (fun best x =>
    match best with
    | none => some x
    | some y => if x.1 < y.1 ∨ (x.1 = y.1 ∧ (x.2.1 < y.2.1 ∨ (x.2.1 = y.2.1 ∧ x.2.2 < y.2.2))) then some x else best) none

/-! ### One pass into one slot -/

/-- A slot as OPEN sets it (R83). -/
def Slot.opened (eng tag mExt nExt : Nat) (kind : AccKind) (sat : Bool) (used : Nat) : Slot :=
  { Slot.reset with st := .acc, eng := eng, tag := tag, mExt := mExt, nExt := nExt, kind := kind, sat := sat
                    acc := List.replicate (mExt * nExt) 0, used := used }

/-- Rows of operands of logical engine e's pass: the row stream and the engine's column stream (R76, R136, R148). -/
structure ColOps where
  rows : List OpRow
  cols : List OpRow
  deriving DecidableEq, Repr, Inhabited

def listWords (im : Image) (l : Option Nat) : List Word :=
  match l with
  | none => []
  | some i => im.chains.getD i []

def Core.colOps (k : Core) (t : TI) (lists : List (Option Nat)) (e : Nat) : ColOps :=
  let w := t.wide
  { rows := (List.range t.oMLim).map fun m =>
      colOpRow k.store (listWords k.img (lists.getD 1 none)) t.aAddr w t.oCplx t.cpartA t.flush true t.fA t.pieceA
        (k.skewRow (cellOf w m)) m t.oKLim
    cols := (List.range (t.nLimOf e)).map fun n =>
      colOpRow k.store (listWords k.img (lists.getD (2 + e) none)) (t.bAddrOf e) w t.oCplx (t.cpartBOf e) t.flush false
        t.fB t.pieceB (k.skewCol e (cellOf w n)) n t.oKLim }

/-- Add one pass into a slot (R70 to R74, R123, R130): every present element's lane, then the exception state. -/
def Slot.add (s : Slot) (core : Nat) (t : TI) (e : Nat) (o : ColOps) : Slot :=
  let first := t.pieceA == 0 && t.pieceB == 0
  let sums := (List.range s.mExt).flatMap fun m => (List.range s.nExt).map fun n =>
    let old := s.acc.getD (m * s.nExt + n) 0
    match o.rows[m]?, o.cols[n]? with
    | some a, some b => (m, n, sumKind s.kind s.sat old (laneProducts first (t.cnegOf e) a.ops b.ops))
    | _, _ => (m, n, ⟨old, false, none⟩)
  let inv := firstPlace (sums.filterMap fun x => x.2.2.inv.map fun k => (k, x.1, x.2.1))
  let fl := (o.rows ++ o.cols).foldl (fun a r => a.or r.fl) ({} : Flags)
  { s with
    acc := sums.map (·.2.2.code)
    exc := excOr s.exc (inv.isSome || fl.invalid) (sums.any (·.2.2.ovf) || fl.overflow)
    cap := if bitOf s.cap 63 then s.cap
           else match inv with
             | some (k, m, n) => capWord core e t.colCycleStep 0 m n (s.kDone + k)
             | none => s.cap
    kDone := satAdd 32 s.kDone t.kExt }

/-- Whether a POISON_CHECK of a prologue fired in a pass (R165). -/
def ColOps.poison (o : ColOps) : Bool := (o.rows ++ o.cols).any (·.poison)

/-- One pass of logical engine e into a slot that already holds its tag as OPEN or ADD requires. -/
def Core.runPass (k : Core) (core i : Nat) (e : Nat) (rec : PassRec) : Core :=
  { k with slots := k.slots.modify i fun s => s.add core rec.ti e (k.colOps rec.ti rec.lists e) }

/-! ### Slots and tags (R84 to R86, R210) -/

/-- Slots of the physical engine that runs logical engine e. -/
def Core.slotsOf (k : Core) (e : Nat) : List Nat := [2 * k.physEng e, 2 * k.physEng e + 1]

def Core.slot (k : Core) (i : Nat) : Slot := k.slots.getD i .reset

def Core.setSlot (k : Core) (i : Nat) (s : Slot) : Core := { k with slots := k.slots.set i s }

/-- The slot in which tag t of logical engine e is resident. -/
def Core.resident (k : Core) (e t : Nat) : Option Nat :=
  (k.slotsOf e).find? fun i => decide ((k.slot i).st ≠ .empty) && (k.slot i).eng == e && (k.slot i).tag == t

def Core.autoSpill (k : Core) : Bool := bitOf (k.img.hdr.headD 0) 53

def Core.emptySlot (k : Core) (e : Nat) : Option Nat := (k.slotsOf e).find? fun i => decide ((k.slot i).st = .empty)

/-- The slot that a new tag of logical engine e takes: tags 0 and 1 are slots 0 and 1 without auto_spill (R84); with it, and
on a survivor, the first EMPTY slot (R86, R210). -/
def Core.slotForNew (k : Core) (e t : Nat) : Option Nat :=
  if k.autoSpill || k.rep.fenced.toNat % 4 ≠ 0 then
    match k.resident e t with
    | some _ => none
    | none => k.emptySlot e
  else
    let i := 2 * k.physEng e + t % 2
    if (k.slot i).st = .empty then some i else none

/-- The victim of an automatic spill: the ACCUMULATING slot least recently named (R86). -/
def Core.victim (k : Core) (e : Nat) : Option Nat :=
  let l := (k.slotsOf e).filter fun i => decide ((k.slot i).st = .acc)
  match l with
  | [] => none
  | [i] => some i
  | i :: j :: _ => some (if (k.slot j).used < (k.slot i).used then j else i)

/-- Whether a started pass still adds into slot i. -/
def Core.passIn (k : Core) (i : Nat) : Bool :=
  k.flight.any fun f =>
    match f.work with
    | .colPass engs tags _ _ _ => (engs.zip tags).any fun x => k.resident x.1 x.2 == some i
    | _ => false

end Sys2Proof.Machine
end

