-- ==== Sys2Proof/Machine/PlainPass.lean ====
section
/-! DEFINITION. What one Plain pass adds into its accumulator rows (R97 to R117, R123 to R130, R136, R138, R211). -/

namespace Sys2Proof.Machine

/-! ### The plane and its parity (R97, R119) -/

/-- Word w of the plane has an odd number of ones. -/
def oddWord (m : Mem) (w : Nat) : Bool := (List.range 32).foldl (fun b i => xor b ((m.num (4 * w) 4).testBit i)) false

/-- Write n bytes of the plane from `dst`, the listed ones at their offsets and zero elsewhere, with fresh parity. -/
def PlainSt.planeWrite (p : PlainSt) (dst n : Nat) (bs : List (Nat × Byte)) : PlainSt :=
  let plane := (p.plane.clear dst n).wrAll (bs.map fun b => (dst + b.1, b.2))
  let ws := (bs.map fun b => (dst + b.1) / 4).eraseDups
  { p with
    plane := plane
    par := ws.foldl (fun t w => Tab.set false t w (oddWord plane w))
      (p.par.filter fun (e : Nat × Bool) => decide (4 * e.1 < dst) || decide (dst + n ≤ 4 * e.1)) }

/-- One bit of the plane flips, and its parity bit does not. -/
def PlainSt.flip (p : PlainSt) (bit : Nat) : PlainSt :=
  let a := bit / 8
  { p with plane := p.plane.wrAll [(a, p.plane.rd a ^^^ BitVec.ofNat 8 (1 <<< (bit % 8)))] }

/-- Some word of n bytes of the plane from `lo` on does not match its parity bit; words that neither the plane nor its parity
lists are zero and match. -/
def PlainSt.badWords (p : PlainSt) (lo n : Nat) : Bool :=
  let inside := fun w => decide (lo ≤ 4 * w) && decide (4 * w < lo + n)
  let ws := (p.plane.map fun (b : Nat × Byte) => b.1 / 4) ++ p.par.map fun (e : Nat × Bool) => e.1
  (ws.filter inside).any fun w => oddWord p.plane w != Tab.get false p.par w

/-- Bad parity in a slot, as the scrubber reads it; and in a page of a class, as a pass reads it, a 4-bit page being one half of
its slot (R97, R119). -/
def PlainSt.parityBad (p : PlainSt) (slot : Nat) : Bool := p.badWords (32768 * slot) 32768
def PlainSt.pageBad (p : PlainSt) (cls page : Nat) : Bool := p.badWords (pageAddr cls page) (pageBytes cls)

/-! ### Tree summation (R106 to R108) -/

/-- The products of a tree: index, product, invalid. Absent products are left out. -/
abbrev Prods := List (Nat × FV × Bool)

/-- Exponent of the leading bit of the largest finite product; none where there is none. -/
def topExp (ps : Prods) : Option Int :=
  ps.foldl (fun h p =>
    match p.2.1 with
    | .fin _ m e => some (match h with | none => (m.log2 : Int) + e | some x => max x ((m.log2 : Int) + e))
    | _ => h) none

/-- sign * floor(|p| / 2^q). -/
def windowTerm (q : Int) : FV → Int
  | .fin n m e =>
    let k : Int := ((if q ≤ e then m <<< (e - q).toNat else m >>> (q - e).toNat : Nat))
    if n then -k else k
  | _ => 0

/-- The smallest index at which the infinite products up to it hold both signs (R109). -/
def bothSigns (ps : Prods) : Option Nat :=
  (ps.foldl (fun (st : Bool × Bool × Option Nat) p =>
    match p.2.1 with
    | .inf n =>
      let x := (st.1 || n, st.2.1 || !n)
      (x.1, x.2, st.2.2.or (if x.1 && x.2 then some p.1 else none))
    | _ => st) (false, false, none)).2.2

/-- What a tree delivers: its value, overflow of the conversion, and the index of its first invalid (R106, R107, R109). -/
structure TreeOut where
  val : FV
  ovf : Bool
  inv : Option Nat
  deriving DecidableEq, Repr, Inhabited

def minOpt (a b : Option Nat) : Option Nat :=
  match a, b with
  | some x, some y => some (min x y)
  | none, y => y
  | x, none => x

/-- TREE_SUM of R106. -/
def treeSum (ps : Prods) : TreeOut :=
  let bad := (ps.find? (·.2.2)).map (·.1)
  let both := bothSigns ps
  if ps.any (·.2.1.isNan) then ⟨.nan false, false, if bad.isSome then minOpt bad both else none⟩
  else if both.isSome then ⟨.nan false, false, both⟩
  else
    match ps.find? (·.2.1.isInf) with
    | some p => ⟨p.2.1, false, none⟩
    | none =>
      match topExp ps with
      | none => ⟨.zero false, false, none⟩
      | some h =>
        let q := h - 29
        let s := ps.foldl (fun a p => a + windowTerm q p.2.1) (0 : Int)
        if s = 0 then ⟨.zero false, false, none⟩
        else
          let r := roundInto .b32 {} 0 (.fin (decide (s < 0)) s.natAbs q)
          ⟨r.1, r.2.overflow, none⟩

/-- The exact integer sum of a tree (R108). -/
def treeSumInt (ps : Prods) : Int := ps.foldl (fun a p => a + p.2.1.toInt) 0

/-! ### Accumulator rows (R104, R114, R211) -/

/-- A fenced Plain engine (R211). -/
def Core.engFenced (k : Core) (e : Nat) : Bool := k.rep.fenced.toNat.testBit e

/-- Offset of the sum extension in the activation store. -/
def sumExt : Nat := 0x3FD000

/-- Where an accumulator element lives: a key of the column or row-tree registers, or a store offset of the sum extension. The
row-tree rows of a fenced engine share the first 2 KiB of its block (R211). -/
def Core.rowCell (k : Core) (tree : Bool) (e r n : Nat) : Bool × Nat :=
  if tree then
    if k.engFenced e then (true, sumExt + 4 * (768 * e + n)) else (false, 2048 * e + 512 * r + n)
  else
    let r' := if k.engFenced e then r + 4 else r
    if r' < 4 then (false, 256 * e + 64 * r' + n) else (true, sumExt + 4 * (768 * e + 64 * (r' - 4) + n))

/-- The code of an accumulator element (R104). -/
def Core.rdRow (k : Core) (tree : Bool) (e r n : Nat) : Nat :=
  let c := k.rowCell tree e r n
  if c.1 then k.store.num c.2 4
  else (Tab.get (0 : BitVec 32) (if tree then k.plain.treeAcc else k.plain.colAcc) c.2).toNat

def Core.wrRow (k : Core) (tree : Bool) (e r n v : Nat) : Core :=
  let c := k.rowCell tree e r n
  if c.1 then { k with store := k.store.wrAll (numBytes c.2 4 v) }
  else if tree then { k with plain := { k.plain with treeAcc := Tab.set 0 k.plain.treeAcc c.2 (BitVec.ofNat 32 v) } }
  else { k with plain := { k.plain with colAcc := Tab.set 0 k.plain.colAcc c.2 (BitVec.ofNat 32 v) } }

/-- Key of a row's exception state. -/
def rowExcKey (tree : Bool) (e r : Nat) : Nat := if tree then 64 + 4 * e + r else 16 * e + r

def Core.rdExc (k : Core) (tree : Bool) (e r : Nat) : Word × Word := Tab.get (0, 0) k.plain.rowExc (rowExcKey tree e r)

def Core.wrExc (k : Core) (tree : Bool) (e r : Nat) (x : Word × Word) : Core :=
  { k with plain := { k.plain with rowExc := Tab.set (0, 0) k.plain.rowExc (rowExcKey tree e r) x } }

/-- Elements per row: 64 columns or 512 row trees (R112). -/
def rowWidth (tree : Bool) : Nat := if tree then 512 else 64

/-- Rows per engine of a row set (R103, R110). -/
def rowsOf (vecMax : Nat) : Nat := (vecMax + 3) / 4

/-- The (engine, row) pairs of a row set from acc_row. -/
def rowCells (row vecMax : Nat) : List (Nat × Nat) :=
  (List.range 4).flatMap fun e => (List.range (rowsOf vecMax)).map fun r => (e, row + r)

/-- OPEN of a row set: every element +0 and every exception state clear (R110). -/
def Core.openRows (k : Core) (tree : Bool) (row vecMax : Nat) : Core :=
  (rowCells row vecMax).foldl (fun k x =>
    ((List.range (rowWidth tree)).foldl (fun k n => k.wrRow tree x.1 x.2 n 0) k).wrExc tree x.1 x.2 (0, 0)) k

/-! ### Parameters -/

def TI.fAct (t : TI) : Fmt := (Fmt.ofCode t.fmtAct).getD .df8
def TI.fW (t : TI) : Fmt := (Fmt.ofCode t.fmtW).getD .df8
def TI.plainInt (t : TI) : Bool := isIntFmt t.fAct
/-- Piece-parts per vector (R103, R138). -/
def TI.parts (t : TI) : Nat := plainPieces t.fAct * (if t.pCplx then 2 else 1)
/-- Step of the plan cycle: weight pieces in descending order (R128). -/
def TI.plainStep (t : TI) : Nat := plainPieces t.fW - 1 - t.pieceW

/-! ### One vector -/

/-- Piece and part (imaginary) of piece-part j (R128, R138). -/
def partOf (t : TI) (j : Nat) : Nat × Bool :=
  if t.pCplx then (plainPieces t.fAct - 1 - j / 2, j % 2 == 1) else (plainPieces t.fAct - 1 - j, false)

/-- The decoded activation elements of a vector that the pass reads, one part, with flags and poison of the prologue. -/
def Core.actRow (k : Core) (rec : PassRec) (tree : Bool) (base src : Nat) (im : Bool) : List (FV × Delivered) :=
  let t := rec.ti
  let list := listWords k.img (rec.lists.getD 4 none)
  (List.range (if tree then t.pNLim else t.pKLim)).map fun j =>
    let x := t.kBase + j
    actElem k.store list t.fAct t.flush base t.vecPitch src (if t.pCplx then 2 * x + im.toNat else x) j x

/-- The weight values that meet them for output o: column o of the page, or row o of it in a TPASS (R103, R114). -/
def Core.weightRow (k : Core) (t : TI) (tree : Bool) (o : Nat) : List FV :=
  let w := fun kk n =>
    weightAt k.plain.plane t.fW t.flush t.page (k.store.rd (t.scaleAddr + 16 * n + kk / 32)).toNat kk n
  (List.range (if tree then t.pNLim else t.pKLim)).map fun j => if tree then w o j else w j o

/-- The products of one tree. -/
def treeProds (first : Bool) (pa pw : Nat) (fa fw : Fmt) (act w : List FV) : Prods :=
  ((List.range act.length).zip (act.zip w)).filterMap fun x =>
    (laneProduct first ⟨x.2.1, pieceOf fa false pa x.2.1⟩ ⟨x.2.2, pieceOf fw false pw x.2.2⟩).map fun p => (x.1, p)

/-- Add the trees of every piece-part of one vector into output o (R109, R128, R138): the row's new code, overflow, and the
index of the first invalid. The add of a tree result and the row's value is invalid where they are infinities of opposite
sign; it takes the index of the tree's first infinite product (log entry 14). -/
def plainElem (t : TI) (sat : Bool) (acts : Bool → List FV) (ws : Nat → List FV) (o old : Nat) : LaneSum :=
  (List.range t.parts).foldl (fun (st : LaneSum) j =>
    let p := partOf t j
    let col := if p.2 then (if o % 2 = 0 then o + 1 else o - 1) else o
    let neg := p.2 && o % 2 == 0
    let ps := treeProds (p.1 == 0 && t.pieceW == 0) p.1 t.pieceW t.fAct t.fW (acts p.2) (ws col)
    if t.plainInt then
      let x := treeSumInt ps
      let a := addI32 sat (signedOf 32 st.code) (if neg then -x else x)
      ⟨intCode 32 a.1, st.ovf || a.2, none⟩
    else
      let r := treeSum ps
      let a := fadd .b32 {} (b32 st.code) (if neg then r.val.neg else r.val)
      let i := r.inv.or (if a.2.invalid then some (((ps.find? (·.2.1.isInf)).map (·.1)).getD 0) else none)
      ⟨toB32 a.1, st.ovf || r.ovf || a.2.overflow, minOpt st.inv i⟩) ⟨old, false, none⟩

/-- One vector of a pass into its row (R103, R109, R113): vector `i` of the dwell, from index `src` of the Ford at `base`. -/
def Core.addVec (k : Core) (core : Nat) (rec : PassRec) (tree sat : Bool) (ksum : Nat) (i base src : Nat) : Core :=
  let t := rec.ti
  let e := i % 4
  let r := t.pRow + i / 4
  let re := k.actRow rec tree base src false
  let im := if t.pCplx then k.actRow rec tree base src true else []
  let acts := fun b => (if b then im else re).map (·.1)
  let outs := (List.range (if tree then t.pKLim else t.pNLim)).map fun o =>
    (o, plainElem t sat acts (k.weightRow t tree) o (k.rdRow tree e r o))
  let k1 := outs.foldl (fun k x => k.wrRow tree e r x.1 x.2.code) k
  let inv := firstPlace (outs.filterMap fun x => x.2.inv.map fun kk => (kk, i, x.1))
  let fl := (re ++ im).foldl (fun a d => a.or d.2.fl) ({} : Flags)
  let x := k.rdExc tree e r
  k1.wrExc tree e r
    (excOr x.1 (inv.isSome || fl.invalid) (outs.any (·.2.ovf) || fl.overflow),
     if bitOf x.2 63 then x.2
     else match inv with
       | some (kk, _, o) => capWord core e t.plainStep (if tree then 2 else 1) i o (ksum + kk)
       | none => x.2)

/-- One Plain pass into its rows. -/
def Core.runPlain (k : Core) (core : Nat) (rec : PassRec) (tree sat : Bool) (ksum : Nat) : Core :=
  rec.vecs.foldl (fun k v => k.addVec core rec tree sat ksum v.1 v.2.1 v.2.2) k

/-- Whether a POISON_CHECK of the pass's prologue fired (R165). -/
def Core.plainPoison (k : Core) (rec : PassRec) (tree : Bool) : Bool :=
  rec.vecs.any fun v =>
    (k.actRow rec tree v.2.1 v.2.2 false ++ (if rec.ti.pCplx then k.actRow rec tree v.2.1 v.2.2 true else [])).any
      (·.2.poison)

/-- Reduction extent that a pass adds to ksum (R145). -/
def redExt (tree : Bool) : Nat := if tree then 64 else 512

/-! ### Row sets (R110, R112) -/

def Core.rowSet? (k : Core) (tree : Bool) (row : Nat) : Option RowSet :=
  k.plain.sets.find? fun s => s.tree == tree && s.row == row

def Core.setRowSet (k : Core) (x : RowSet) : Core :=
  { k with plain := { k.plain with sets :=
      (k.plain.sets.filter fun s => !(s.tree == x.tree && s.row == x.row)) ++ [x] } }

def Core.dropRowSet (k : Core) (tree : Bool) (row : Nat) : Core :=
  { k with plain := { k.plain with sets := k.plain.sets.filter fun s => !(s.tree == tree && s.row == row) } }

/-- Whether a row set overlaps rows [row, row + rows). An empty set, of vec_max 0, shares no row with another (R110), but a set
is known by its first row, so a set that still drains at that row counts. -/
def RowSet.overlaps (x : RowSet) (tree : Bool) (row vecMax : Nat) : Bool :=
  x.tree == tree && (x.row == row
    || (decide (0 < vecMax) && decide (0 < x.vecMax) && decide (x.row < row + rowsOf vecMax)
      && decide (row < x.row + rowsOf x.vecMax)))

/-- Whether a row set shares storage with rows that an OPEN takes: rows of its own tree, or, with an engine fenced, the first
2 KiB of that engine's block, which row-tree rows share with one another and with column rows 0 to 7 (R110, R211). -/
def Core.clashes (k : Core) (x : RowSet) (tree : Bool) (row vecMax : Nat) : Bool :=
  x.overlaps tree row vecMax
    || (k.rep.fenced != 0 && decide (0 < vecMax) && decide (0 < x.vecMax)
        && (if tree then x.tree || decide (x.row < 8) else x.tree && decide (row < 8)))

/-- Vectors that the guests of a pass read: index in the dwell, base of the guest Ford, index there (R117). -/
def guestVecs (b n base : Nat) : List (Nat × Nat × Nat) := (List.range n).map fun j => (b + j, base, j)

def batchVecs (b base : Nat) : List (Nat × Nat × Nat) := (List.range b).map fun i => (i, base, i)

end Sys2Proof.Machine
end

