-- ==== Sys2Proof/Machine/Epilogue.lean ====
section
/-! DEFINITION. The epilogue unit: one crossing of a drained tile through a chain, and the output conversion (R43, R55, R56,
R59, R134, R154 to R156, R159, R163, R170 to R178, R203, R378). -/

namespace Sys2Proof.Machine

/-! ### The generator (R56) -/

def genStep (s : Word) : Word :=
  let n := s.toNat
  let fb := (n.testBit 63).toNat ^^^ (n.testBit 62).toNat ^^^ (n.testBit 60).toNat ^^^ (n.testBit 59).toNat
  word (2 * n + fb)

def genSteps : Nat → Word → Word
  | 0, s => s
  | k + 1, s => genSteps k (genStep s)

/-- DRAW: the advanced state and the draw. -/
def genDraw (s : Word) : Word × Nat :=
  let s' := genSteps 16 s
  (s', s'.toNat % 65536)

/-- n draws, in order. -/
def genDraws : Nat → Word → Word × List Nat
  | 0, s => (s, [])
  | n + 1, s =>
    let d := genDraw s
    let r := genDraws n d.1
    (r.1, d.2 :: r.2)

/-! ### Accumulators as exact values (R134) -/

def accValue (kind : AccKind) (code : Nat) : FV :=
  match kind with
  | .f32 => b32 code
  | .i32 => .ofInt (signedOf 32 code)
  | .dwf => (addExact (dwHi code) (dwLo code)).1
  | .dwi => .ofInt (signedOf 128 code)

/-! ### The row tree (R170) -/

/-- One level of the tree. -/
def treeLevel (op : FV → FV → FV × Flags) : List (Option FV) → List (Option FV) × Flags
  | [] => ([], {})
  | [x] => ([x], {})
  | a :: b :: t =>
    let r := treeLevel op t
    match a, b with
    | some x, some y => let v := op x y; (some v.1 :: r.1, v.2.or r.2)
    | some x, none => (some x :: r.1, r.2)
    | none, y => (y :: r.1, r.2)

/-- The root after n levels. -/
def treeRoot (op : FV → FV → FV × Flags) : Nat → List (Option FV) → Option FV × Flags
  | 0, l => (l.headD none, {})
  | n + 1, l =>
    let r := treeLevel op l
    let q := treeRoot op n r.1
    (q.1, r.2.or q.2)

/-- Sum of a row's terms by the row tree; +0 where none is present. Rows hold at most 512 elements (R159). -/
def rowSum (wf : Fmt) (l : List (Option FV)) : FV × Flags :=
  let r := treeRoot (fadd wf {}) 9 l
  (r.1.getD (.zero false), r.2)

/-- Maximum of a row's terms; −∞ where none is present. -/
def rowMax (l : List (Option FV)) : FV :=
  ((treeRoot (fun a b => (maxFV a b, ({} : Flags))) 9 l).1).getD (.inf true)

/-! ### Statistic banks (R172, R174) -/

def bankKey (bank i : Nat) : Nat := 256 * bank + i

def bankRow (t : Tab BankRow) (bank i : Nat) : BankRow := Tab.get (default : BankRow) t (bankKey bank i)

def setBankRow (t : Tab BankRow) (bank i : Nat) (r : BankRow) : Tab BankRow := Tab.set (default : BankRow) t (bankKey bank i) r

def c32 (v : FV) : BitVec 32 := BitVec.ofNat 32 (toB32 v)
def v32 (c : BitVec 32) : FV := b32 c.toNat

/-- The kind of a statistic stage: the sel of ROWSTAT, 4 for ONLINE_RESCALE. -/
def statKind (g : Stage) : Nat := if g.code = cONLINE then 4 else g.sel

/-- A bank row as the first tile of a group of the kind resets it; kind 4 is ONLINE_RESCALE (R172, R178). -/
def BankRow.start (kind : Nat) (r : BankRow) : BankRow :=
  let ninf : BitVec 32 := 0xFF800000
  let r := { r with c := 0 }
  match kind with
  | 0 => { r with mx := ninf }
  | 1 => { r with s1 := 0 }
  | 2 => { r with s1 := 0, s2 := 0 }
  | _ => { r with mx := ninf, s1 := 0 }

/-- The running-maximum update shared by MAX_EXPSUM and ONLINE_RESCALE: the row, the exponential terms, the flags of the
sums (R172, R178). -/
def BankRow.expsum (r : BankRow) (l : List (Option FV)) : BankRow × List (Option FV) × Flags :=
  let mn := maxFV (v32 r.mx) (rowMax l)
  let neg := decide (mn = .inf true)
  let alpha := if neg then one else expV (qsub (v32 r.mx) mn)
  let es := l.map fun x => x.map fun v => if neg then .zero false else expV (qsub v mn)
  let sm := rowSum .b32 es
  let s := fadd .b32 {} (qmul (v32 r.s1) alpha) sm.1
  ({ r with mx := c32 mn, s1 := c32 s.1, alpha := c32 alpha }, es, sm.2.or s.2)

/-- Present elements of a row. -/
def presentCount (l : List (Option FV)) : Nat := (l.filter Option.isSome).length

/-- ROWSTAT on one tile row: the bank row, and the flags of its sums (R172). -/
def BankRow.stat (r : BankRow) (kind : Nat) (l : List (Option FV)) : BankRow × Flags :=
  let r := { r with c := r.c + BitVec.ofNat 32 (presentCount l) }
  match kind with
  | 0 => ({ r with mx := c32 (maxFV (v32 r.mx) (rowMax l)) }, {})
  | 1 =>
    let sm := rowSum .b32 l
    let s := fadd .b32 {} (v32 r.s1) sm.1
    ({ r with s1 := c32 s.1 }, sm.2.or s.2)
  | 2 =>
    let sm := rowSum .b32 l
    let s := fadd .b32 {} (v32 r.s1) sm.1
    let sq := rowSum .b32 (l.map fun x => x.map fun v => qmul v v)
    let s' := fadd .b32 {} (v32 r.s2) sq.1
    ({ r with s1 := c32 s.1, s2 := c32 s'.1 }, (sm.2.or s.2).or (sq.2.or s'.2))
  | _ => let x := r.expsum l; (x.1, x.2.2)

/-- Derived values of a row for a ROWAPPLY kind and epsilon (Table — Derived row values): d0 is r, μ or rstd; d1 is rstd of
LAYERNORM. -/
def BankRow.derive (r : BankRow) (sel eps : Nat) : BankRow :=
  let rc := recipV (.ofInt r.c.toNat)
  match sel with
  | 0 => { r with d0 := c32 (recipV (v32 r.s1)) }
  | 1 =>
    let mu := qmul (v32 r.s1) rc
    let q := qmul (v32 r.s2) rc
    let var := qsub q (qmul mu mu)
    let var := if var.lt (.zero false) then .zero false else var
    let sd := (fsqrt (qadd var (b32 eps))).1
    { r with d0 := c32 mu, d1 := c32 (recipV sd) }
  | _ =>
    let ms := qmul (v32 r.s2) rc
    let sd := (fsqrt (qadd ms (b32 eps))).1
    { r with d0 := c32 (recipV sd) }

/-- ROWAPPLY on one present element (R174). The stage has no ovf field; its element operations read the zero there as SAT,
while its derived values overflow to infinity (DESIGN CHOICE, log entry 31). -/
def BankRow.applyTo (r : BankRow) (g : Stage) (v : FV) : FV × Flags :=
  match g.sel with
  | 0 =>
    let mx := v32 r.mx
    if mx.isNan then (.nan false, {})
    else if decide (mx = .inf true) || r.s1 == 0 then (.zero false, {})
    else
      let d := fadd .b32 g.mode v mx.neg
      let e := fmul .b32 g.mode (expV d.1) (v32 r.d0)
      (e.1, d.2.or e.2)
  | 1 =>
    let a := fadd .b32 g.mode v (v32 r.d0).neg
    let e := fmul .b32 g.mode a.1 (v32 r.d1)
    (e.1, a.2.or e.2)
  | _ => fmul .b32 g.mode v (v32 r.d0)

/-! ### One crossing -/

/-- What a crossing threads through its rows. -/
structure EpiSt where
  gen : Word
  banks : Tab BankRow
  chain : Flags
  out : Flags
  key : Option (List Nat)
  /-- Elements, by row and column, in which a POISON_CHECK has seen what it looks for (R165). -/
  seen : List (Nat × Nat)
  /-- Bitmap bytes of DROPOUT (R163). -/
  bits : List (Nat × Byte)
  /-- Row partials by 1024 * position + row; column accumulations by 1024 * position + column (R171). -/
  rowRed : Tab (Option FV)
  colRed : Tab (Option FV)
  deriving DecidableEq, Repr, Inhabited

/-- Lexicographic order of places. -/
def keyLt : List Nat → List Nat → Bool
  | [], [] => false
  | [], _ => true
  | _, [] => false
  | a :: s, b :: t => decide (a < b) || (a == b && keyLt s t)

def minKey (a : Option (List Nat)) (b : List Nat) : Option (List Nat) :=
  match a with
  | none => some b
  | some x => if keyLt b x then some b else some x

/-- Record the flags of an operation at a place. -/
def EpiSt.flag (st : EpiSt) (isOut : Bool) (f : Flags) (place : List Nat) : EpiSt :=
  { st with
    chain := if isOut then st.chain else st.chain.or f
    out := if isOut then st.out.or f else st.out
    key := if f.invalid then minKey st.key place else st.key }

/-- The column named for an invalid operation over a row (R378). Where no term of the row itself makes the operation invalid
(overflowed partial sums of both signs, or an infinite partial of an earlier tile), the model names the tile's first infinite
column, else its first present one, and it looks for both signs within the tile alone (DESIGN CHOICE, log entry 31). -/
def invColumn (l : List (Option FV)) : Nat :=
  let xs := ((List.range l.length).zip l).filterMap fun x => x.2.map fun v => (x.1, v)
  let sg := (xs.find? (·.2.sig)).map (·.1)
  let both := bothSigns (xs.map fun x => (x.1, x.2, false))
  let inf := (xs.find? (·.2.isInf)).map (·.1)
  ((minOpt sg both).or inf).getD ((xs.head?.map (·.1)).getD 0)

/-- What fixes a crossing: the instruction, the list, the store it reads, the kind, the tile's number within the drain, its
extents, its present rows and columns. -/
structure EpiCtx where
  ti : TI
  list : List Word
  store : Mem
  kind : AccKind
  tile : Nat
  n : Nat
  rows : List Nat
  nLim : Nat
  deriving DecidableEq, Repr, Inhabited

namespace EpiCtx
variable (x : EpiCtx)
def stages : List Stage := stagesOf x.list
def wf : Fmt := chFmt (x.list.headD 0)
/-- The row statistic on a bank that stands last before position p (R173). -/
def statOf (b p : Nat) : Option Stage :=
  ((x.stages.take p).filter fun g => (g.code == cROWSTAT || g.code == cONLINE) && g.bank == b).getLast?
/-- Whether the ROWAPPLY at position p belongs to a group with g above 1, whose rows DERIVATION has derived (R175). -/
def deferred (p : Nat) : Bool :=
  match x.stages[p]? with
  | some g => g.code == cROWAPPLY && ((x.statOf g.bank p).map fun q => decide (1 < q.count)).getD false
  | none => false
/-- First deferring ROWAPPLY at or after a position; the number of stages where there is none. -/
def holdPos (lo : Nat) : Nat :=
  ((List.range x.stages.length).find? fun p => decide (lo ≤ p) && x.deferred p).getD x.stages.length
/-- Position of the first stage that is not POISON_CHECK (R155). -/
def entryPos : Nat := x.stages.findIdx (fun g => decide (g.code ≠ cPOISON))
/-- The format that an element has when it comes to position p: the working format, or at the first computing stage what the
accumulator is held in; none for an exact value of a double-word or integer accumulator (R32, R155). -/
def srcAt (p : Nat) : Option Fmt :=
  if p ≠ x.entryPos then some x.wf else if x.kind = .f32 then some .b32 else none
/-- Position of a CONVERT that is the last stage; its conversion is the output conversion (R155). -/
def finalPos : Option Nat :=
  match x.stages.getLast? with
  | some g => if g.code = cCONVERT then some (x.stages.length - 1) else none
  | none => none
/-- Whether elements take an entry rounding, by accumulator kind and working format alone (R155). -/
def entry : Bool :=
  (match x.kind with
    | .f32 => false
    | .i32 => !chWide (x.list.headD 0)
    | _ => true) &&
  (match x.stages[x.entryPos]? with
    | some g => decide (g.code ≠ cCONVERT)
    | none => false)
def rnd : Rnd := (Rnd.ofCode x.ti.dRnd).getD .rne
/-- Codes of the output conversion: rounding, saturation, flush, stage position, and whether its flags go to out_flags. -/
def outCodes : Rnd × Bool × Bool × Nat × Bool :=
  match x.finalPos with
  | some p => let g := x.stages.getD p (0, 0); (g.rnd, !g.ovf, g.flush, p, false)
  | none => (x.rnd, !x.ti.dOvf, x.ti.dFlush, 8, true)
/-- Draw slots of one element in a crossing of stages lo to hi: 100 entry rounding, a stage position, 200 output (R59). -/
def slots (lo hi : Nat) : List Nat :=
  (if lo ≤ x.entryPos && decide (x.entryPos < hi) && x.entry && x.rnd == .stoch then [100] else []) ++
  ((List.range hi).filter fun p => decide (lo ≤ p) && decide (x.finalPos ≠ some p) &&
    (match x.stages[p]? with
      | some g => g.code == cDROPOUT || (g.code == cCONVERT && g.rndCode == 2)
      | none => false)) ++
  (if hi = x.stages.length && x.outCodes.1 == .stoch then [200] else [])
end EpiCtx

/-- The draw of a slot for element j of a row whose draws are ds. -/
def drawOf (slots : List Nat) (ds : List Nat) (j slot : Nat) : Nat :=
  let i := slots.findIdx (· == slot)
  if i < slots.length then ds.getD (j * slots.length + i) 0 else 0

/-- The element-wise stages across one row, present elements only, with flags. -/
def epiMap (x : EpiCtx) (i p : Nat) (f : Nat → FV → FV × Flags) (isOut : Bool) (st : EpiSt) (l : List (Option FV)) :
    EpiSt × List (Option FV) :=
  ((List.range l.length).zip l).foldl (fun acc e =>
    match e.2 with
    | none => (acc.1, acc.2 ++ [none])
    | some v =>
      let r := f e.1 v
      (acc.1.flag isOut r.2 [0, x.tile, i, e.1, p], acc.2 ++ [some r.1])) (st, [])

/-- The bytes of a row of a keep bitmap (R163). -/
def bitmapBytes (a n : Nat) (keep : Nat → Bool) : List (Nat × Byte) :=
  (List.range ((n + 7) / 8)).map fun q =>
    (a + q, BitVec.ofNat 8 (maskOf ((List.range 8).filter fun b => decide (8 * q + b < n) && keep (8 * q + b))))

/-- One stage on one row. Under wfmt 1 the term v × v of REDUCE_ROWS and REDUCE_COLS is rounded in binary64, the working format in
which R154 has every stage of such a list compute, although R172 calls it a binary32 operation (DESIGN CHOICE, unsafe, log entry
31). -/
def epiStage (x : EpiCtx) (slots ds : List Nat) (i p : Nat) (g : Stage) (st : EpiSt) (l : List (Option FV)) :
    EpiSt × List (Option FV) :=
  let here := presentCount l != 0 -- for REDUCE_ROWS, which writes present rows only (R171)
  let row := bankRow st.banks g.bank i
  let row := if (g.code == 0x07 || g.code == 0x09) && (x.statOf g.bank p).isSome then row.start (statKind g) else row
  match g.code with
  | 0x0D =>
    ({ st with seen := st.seen ++ ((List.range l.length).zip l).filterMap fun e =>
        e.2.bind fun v => if g.poisons v then some (i, e.1) else none }, l)
  | 0x07 =>
    let r := row.stat g.sel l
    (({ st with banks := setBankRow st.banks g.bank i r.1 }).flag false r.2.io [0, x.tile, i, invColumn l, p], l)
  | 0x09 =>
    let r := { row with c := row.c + BitVec.ofNat 32 (presentCount l) }.expsum l
    (({ st with banks := setBankRow st.banks g.bank i r.1 }).flag false r.2.2.io [0, x.tile, i, invColumn l, p], r.2.1)
  | 0x08 =>
    let row := if x.deferred p then row else row.derive g.sel g.c0
    epiMap x i p (fun _ v => row.applyTo g v) false { st with banks := setBankRow st.banks g.bank i row } l
  | 0x0A =>
    if here then
      let sq := g.sel % 4 == 2
      let mx := g.sel % 4 == 1
      let ts := l.map fun e => e.map fun v => if sq then (fmul x.wf {} v v).1 else v
      let r := if mx then (rowMax ts, ({} : Flags)) else rowSum x.wf ts
      let k := 1024 * p + i
      let old := Tab.get none st.rowRed k
      let v := match old with
        | none => r
        | some o => if mx then (maxFV o r.1, r.2) else let s := fadd x.wf {} o r.1; (s.1, r.2.or s.2)
      (({ st with rowRed := Tab.set none st.rowRed k (some v.1) }).flag false v.2.io [0, x.tile, i, invColumn ts, p], l)
    else (st, l)
  | 0x0B =>
    let sq := g.sel % 4 == 2
    let mx := g.sel % 4 == 1
    (((List.range l.length).zip l).foldl (fun st e =>
      match e.2 with
      | none => st
      | some v =>
        let t := if sq then (fmul x.wf {} v v).1 else v
        let k := 1024 * p + e.1
        let o := (Tab.get none st.colRed k).getD (if mx then .inf true else .zero false)
        let r := if mx then (maxFV o t, ({} : Flags)) else fadd x.wf {} o t
        ({ st with colRed := Tab.set none st.colRed k (some r.1) }).flag false r.2.io [0, x.tile, i, e.1, p]) st, l)
  | 0x10 =>
    let r := epiMap x i p (fun j v => g.apply x.wf (x.srcAt p) x.store row i j (drawOf slots ds j p) v) false st l
    if g.sel = 1 then
      let keep := fun j => (l.getD j none).isSome && decide (drawOf slots ds j p < g.c0 % 65536)
      ({ r.1 with bits := r.1.bits ++ bitmapBytes (g.addr + i * g.count) x.n keep }, r.2)
    else r
  | _ => epiMap x i p (fun j v => g.apply x.wf (x.srcAt p) x.store row i j (drawOf slots ds j p) v) false st l

/-- Stages lo to hi − 1 on one row, the entry rounding before the first computing one. -/
def epiRow (x : EpiCtx) (slots ds : List Nat) (lo hi i : Nat) (st : EpiSt) (l : List (Option FV)) :
    EpiSt × List (Option FV) :=
  ((List.range hi).filter fun p => decide (lo ≤ p) && decide (x.finalPos ≠ some p)).foldl (fun acc p =>
    let acc := if x.entry && p == x.entryPos then
        epiMap x i p (fun j v => roundInto x.wf ⟨x.rnd, !x.ti.dOvf, x.ti.dFlush⟩ (drawOf slots ds j 100) v) true acc.1 acc.2
      else acc
    match x.stages[p]? with
    | some g => epiStage x slots ds i p g acc.1 acc.2
    | none => acc) (st, l)

/-- A tile's rows through stages lo to hi − 1: each row's values and, per element, the draw of the output conversion. -/
def epiTile (x : EpiCtx) (lo hi m : Nat) (val : Nat → Nat → FV) (st : EpiSt) :
    EpiSt × List (List (Option (FV × Nat))) :=
  let slots := x.slots lo hi
  (List.range m).foldl (fun acc i =>
    let d := genDraws (slots.length * x.n) acc.1.gen
    let l := (List.range x.n).map fun j => if x.rows.contains i && decide (j < x.nLim) then some (val i j) else none
    let r := epiRow x slots d.2 lo hi i { acc.1 with gen := d.1 } l
    (r.1, acc.2 ++ [((List.range x.n).zip r.2).map fun e => e.2.map fun v => (v, drawOf slots d.2 e.1 200)])) (st, [])

/-! ### Output conversion (R43, R50, R52, R144, R155, R203) -/

/-- The block exponent of R43: the smallest x with 32767 * 2^(x − 142) at least the largest finite magnitude, from 0 to
255. -/
def dxExp (vs : List FV) : Nat :=
  vs.foldl (fun x v =>
    match v with
    | .fin _ m e =>
      let l : Int := m.log2 + e
      let y := if magLt 32767 (l - 14) m e then l - 13 else l - 14
      max x (min 255 (y + 142).toNat)
    | _ => x) 0

/-- One element of a DX16 block under its exponent (R43). -/
def dxElem (rnd : Rnd) (sat : Bool) (x draw : Nat) : FV → Nat × Flags
  | .nan s => (0x8000, { invalid := s })
  | .inf n => (if sat then (if n then 65536 - 32767 else 32767) else 0x8000, { overflow := true })
  | .zero _ => (0, {})
  | .fin n m e =>
    let q : Int := (x : Int) - 142
    let k := roundQuanta m e q rnd draw
    if 32767 < k then
      (if sat then (if n then 65536 - 32767 else 32767) else 0x8000, { overflow := true, inexact := true })
    else (if n then (65536 - k) % 65536 else k, { inexact := !magEq k q m e })

/-- Whether a code of a format is a NaN or poison code (R144). -/
def nanCode (f : Fmt) (c : Nat) : Bool :=
  match f with
  | .dx16 => c % 65536 == 0x8000
  | f => !isIntFmt f && (decodeElem f false 0 c).isNan

/-- What the output conversion gives: bytes at offsets from the destination, DX16 element places, flags with their places,
and the count of NaN codes. -/
structure Emitted where
  bytes : List (Nat × Byte)
  dx : List (Nat × Nat)
  flags : List (Flags × List Nat)
  nan : Nat
  deriving DecidableEq, Repr, Inhabited

/-- A present element on its way out: tile, row, column in the tile, destination column, value, draw. -/
structure OutElem where
  tile : Nat
  i : Nat
  j : Nat
  dcol : Nat
  val : FV
  draw : Nat
  /-- Format whose subnormals the conversion's flush takes for zero (R32); none for an exact accumulator value. -/
  src : Option Fmt
  deriving DecidableEq, Repr, Inhabited

/-- The format that an element has when it reaches the output conversion (R155). -/
def EpiCtx.src (x : EpiCtx) : Option Fmt :=
  if x.entryPos < x.stages.length && decide (x.finalPos ≠ some x.entryPos) then some x.wf
  else if x.kind = .f32 then some .b32 else none

/-- The output conversion of the present elements of a drain (R155, R203): `mTot` the rows of the exponent array's base. -/
def emit (x : EpiCtx) (pitch mTot : Nat) (es : List OutElem) : Emitted :=
  let f := (Fmt.ofCode x.ti.outFmt).getD .b32
  let (rnd, sat, fl, pos, _) := x.outCodes
  let vin := fun (e : OutElem) => match e.src with | some s => flushIn s fl e.val | none => e.val
  if f = .dx16 then
    let blk := fun e : OutElem => (e.i, e.dcol / 32)
    let exps := es.map fun e => dxExp ((es.filter fun y => decide (blk y = blk e)).map fun y => vin y)
    let outs := (es.zip exps).map fun y => (y.1, y.2, dxElem rnd sat y.2 y.1.draw (vin y.1))
    { bytes := outs.flatMap fun y =>
        numBytes (y.1.i * pitch + 2 * y.1.dcol) 2 y.2.2.1 ++
          [(pitch * mTot + 16 * y.1.i + y.1.dcol / 32, BitVec.ofNat 8 y.2.1)]
      dx := outs.map fun y => (y.1.i * pitch + 2 * y.1.dcol, pitch * mTot + 16 * y.1.i + y.1.dcol / 32)
      flags := outs.map fun y => (y.2.2.2, [0, y.1.tile, y.1.i, y.1.j, pos])
      nan := (outs.filter fun y => nanCode f y.2.2.1).length }
  else
    let outs := es.map fun e => (e, convert f rnd sat fl e.draw (vin e))
    { bytes := outs.flatMap fun y => numBytes (y.1.i * pitch + y.1.dcol * f.bytes) f.bytes y.2.1
      dx := []
      flags := outs.map fun y => (y.2.2, [0, y.1.tile, y.1.i, y.1.j, pos])
      nan := (outs.filter fun y => nanCode f y.2.1).length }

end Sys2Proof.Machine
end

