-- ==== Sys2Proof/Machine/Reads.lean ====
section
/-! DEFINITION. The bytes of a core's store that a started instruction reads: what passes and drains read of images, vectors and
lists (R76, R81, R102, R113, R156 to R171, R190). -/

namespace Sys2Proof.Machine

/-- Whether byte q lies in one of the ranges. -/
def inRanges (rs : List (Nat × Nat)) (q : Nat) : Bool := rs.any fun r => decide (r.1 ≤ q) && decide (q < r.1 + r.2)

/-- Byte ranges that a stage reads over i below ni and j below nj; DEQUANT over rows below dr and reduction indices from d0 to
dk − 1 (R161 to R164). -/
def stageRows (g : Stage) (ni nj dr d0 dk : Nat) : List (Nat × Nat) :=
  let w := g.fmt.bytes
  match g.code with
  | 0x01 => if g.sel == 1 then [(g.addr, ni * w)] else if g.sel == 2 then [(g.addr, nj * w)] else []
  | 0x02 => [(g.addr, nj * w)]
  | 0x03 => [(g.addr, ni * w)]
  | 0x06 => (List.range ni).map fun i => (g.addr + 64 * g.count * i, nj * w)
  | 0x0A => if 4 ≤ g.sel then [(g.addr, ni * w)] else []
  | 0x0B => if 4 ≤ g.sel then [(g.addr, nj * w)] else []
  | 0x0E => (List.range dr).map fun r => (g.addr + g.count * r + d0 / 32, (dk - 1) / 32 - d0 / 32 + 1)
  | 0x0F =>
    if g.sel == 1 then (List.range ni).map fun i => (g.addr + g.count * i, (nj - 1) / 8 + 1)
    else if g.sel == 2 then [(g.addr, 4 * ni)] else []
  | _ => []

/-- Byte ranges that a list reads over the elements of a stream or a tile. -/
def listRows (list : List Word) (ni nj dr d0 dk : Nat) : List (Nat × Nat) :=
  if ni = 0 ∨ nj = 0 then [] else (stagesOf list).flatMap fun g => stageRows g ni nj dr d0 dk

/-- Whether byte q holds an element of a skewed image that a pass reads: rows or columns below `lim`, each in its own band of
`kLim` lines, and of a complex image the part that the pass takes (R76, R81, R136). -/
def imageReads (wide cplx im : Bool) (f : Fmt) (a lim kLim : Nat) (sk : Nat → Nat) (q : Nat) : Bool :=
  let l := linePitch wide cplx f
  let line := (q - a) / l
  let p0 := 8 * ((q - a) % l) / posBits f
  let p1 := (8 * ((q - a) % l) + 7) / posBits f
  decide (a ≤ q) && decide (0 < l) && (List.range (p1 - p0 + 1)).any fun i =>
    let p := (p0 + i) % lineElems wide
    let s := sk (cellOf wide p)
    decide ((p0 + i) / lineElems wide = im.toNat) && decide (p < lim) && decide (s ≤ line) && decide (line < s + kLim)

/-- Whether an OPASS with these latched lists reads byte q of the store for the tiles of some of its engines: present elements of
its images, and what its prologue lists read for them. -/
def Core.colReads (k : Core) (t : TI) (lists : List (Option Nat)) (engs : List Nat) (q : Nat) : Bool :=
  let rl := listWords k.img (lists.getD 1 none)
  decide (0 < t.oKLim) &&
    (imageReads t.wide t.oCplx t.cpartA (imageFmt rl t.fA) t.aAddr t.oMLim t.oKLim k.skewRow q
      || inRanges (listRows rl t.oMLim t.oKLim t.oMLim 0 t.oKLim) q
      || engs.any fun e =>
        let cl := listWords k.img (lists.getD (2 + e) none)
        let n := t.nLimOf e
        imageReads t.wide t.oCplx (t.cpartBOf e) (imageFmt cl t.fB) (t.bAddrOf e) n t.oKLim (k.skewCol e) q
          || inRanges (listRows cl t.oKLim n n 0 t.oKLim) q)

/-- Byte ranges of the store that a DPASS or TPASS reads besides its vectors: its scale image and what its prologue list reads. -/
def Core.pageReads (k : Core) (rec_ : PassRec) (tree : Bool) : List (Nat × Nat) :=
  let t := rec_.ti
  let n := if tree then t.pNLim else t.pKLim
  if n = 0 then []
  else
    let v := rec_.vecs.foldl (fun m x => max m (x.2.2 + 1)) 0
    (if t.fmtW = 11 then [(t.scaleAddr, 1024)] else [])
      ++ listRows (listWords k.img (rec_.lists.getD 4 none)) v n v t.kBase (t.kBase + n)

/-- Byte ranges of the sum extension that hold the first n elements of rows of vectors, from accumulator row r on (R104). -/
def Core.sumRows (k : Core) (tree : Bool) (r n : Nat) (vecs : List Nat) : List (Nat × Nat) :=
  if n = 0 then []
  else vecs.filterMap fun i =>
    let x := k.rowCell tree (i % 4) (r + i / 4) 0
    if x.1 then some (x.2, 4 * n) else none

/-- The rows of the sum extension that a recorded pass adds into. -/
def Core.addRows (k : Core) (rec_ : PassRec) (tree : Bool) : List (Nat × Nat) :=
  k.sumRows tree rec_.ti.pRow (if tree then rec_.ti.pKLim else rec_.ti.pNLim) (rec_.vecs.map (·.1))

/-- The same of the started pass numbered f. -/
def Core.passAdds (k : Core) (f : Nat) : List (Nat × Nat) :=
  k.plain.sets.flatMap fun x => (x.passes.filter (·.id == f)).flatMap fun r => k.addRows r x.tree

/-- Byte ranges of the store that a DPASS or TPASS reads: its vectors, its scale image, its prologue's vectors, and, where it
adds, its rows of the sum extension. -/
def Core.plainReads (k : Core) (rec_ : PassRec) (tree : Bool) : List (Nat × Nat) :=
  let t := rec_.ti
  let n := if tree then t.pNLim else t.pKLim
  if n = 0 then []
  else
    let f := imageFmt (listWords k.img (rec_.lists.getD 4 none)) t.fAct
    let m := if t.pCplx then 2 else 1
    let lo := t.kBase * m * posBits f / 8
    let hi := ((t.kBase + n) * m * posBits f + 7) / 8
    (rec_.vecs.map fun v => (vecAddr v.2.1 t.vecPitch v.2.2 + lo, hi - lo))
      ++ k.pageReads rec_ tree
      ++ (if t.pAdd then k.addRows rec_ tree else [])

/-- Runs of consecutive numbers of a list, as first number and length. -/
def runsIn (as : List Nat) : List (Nat × Nat) :=
  as.foldr (fun a acc =>
    match acc with
    | (b, n) :: t => if a + 1 = b then (a, n + 1) :: t else if b ≤ a ∧ a < b + n then (b, n) :: t else (a, 1) :: acc
    | [] => [(a, 1)]) []

/-- Whether some byte of the ranges is read. -/
def hits (rs : List (Nat × Nat)) (reads : Nat → Bool) : Bool := rs.any fun r => (List.range r.2).any fun i => reads (r.1 + i)

/-- Bytes of a tile's record (R87). -/
def recBytes : Nat := 262208

/-- A recorded pass, marked where written bytes are among those that it reads. -/
def PassRec.mark (r : PassRec) (rs : List (Nat × Nat)) (reads : Nat → Bool) : PassRec :=
  if hits rs reads then { r with changed := true } else r

/-- A drain under way that reads some of the written bytes. -/
def Flight.marked (rs : List (Nat × Nat)) (f : Flight) : Bool :=
  match f.work with
  | .drain d => hits rs (inRanges d.reads)
  | _ => false

def Flight.mark (rs : List (Nat × Nat)) (f : Flight) : Flight :=
  match f.work with
  | .drain d => if f.marked rs then { f with work := .drain { d with raced := true } } else f
  | _ => f

/-- The rows of the banks in which a drain's statistics stand are free, from free value n on (R190). -/
def Drain.blurBanks (d : Drain) (n : Nat) (t : Tab BankRow) : Tab BankRow :=
  (stagesOf d.list).foldl (fun t g =>
    if g.code == cROWSTAT || g.code == cONLINE then
      (List.range 256).foldl (fun t i => setBankRow t g.bank i (Config.racedBank (n + bankKey g.bank i))) t
    else t) t

/-- Rows of banks. -/
def bankRows : Nat := 512

/-- Who writes bytes of a store: a drain, which other drains follow in program order (R159); a pass, into rows of the sum extension
that other passes add into after it (R111); or any other. -/
inductive Writer where
  | pass | drain | other
  deriving DecidableEq, Repr

/-- Store bytes of a core are written. The passes to be replayed and the slots to be restored from a record that read some of them
are marked, unless the writer is a pass; so are the drains under way, unless it is a drain, and what those drains have added to
statistic banks is free from free value n on (R90, R121, R190). -/
def Core.touch (k : Core) (w : Writer) (n : Nat) (rs : List (Nat × Nat)) : Core :=
  let drains := decide (w ≠ .drain)
  let k := if w = .pass then k else { k with
    slots := k.slots.map fun x => { x with
      passes := x.passes.map fun r => r.mark rs (k.colReads r.ti r.lists [x.eng])
      stale := x.stale || (x.src.map fun a => hits rs (inRanges [(a, recBytes)])).getD false }
    plain := { k.plain with sets := k.plain.sets.map fun x => { x with
      passes := x.passes.map fun r => r.mark rs (inRanges (k.plainReads r x.tree)) } } }
  { k with
    flight := if drains then k.flight.map (Flight.mark rs) else k.flight
    banks := if drains then
        (k.flight.filter (Flight.marked rs)).foldl (fun t f =>
          match f.work with | .drain d => d.blurBanks n t | _ => t) k.banks
      else k.banks }

end Sys2Proof.Machine
end

