-- ==== Sys2Proof/Machine/Transfer.lean ====
section
/-! DEFINITION. Transfers: what bytes they carry, the skew writer, Fords, refusals, reduce on arrival, read requests and write
lines at the memory ports (R196 to R198, R218 to R237, R265, R355, R117). -/

namespace Sys2Proof.Machine

/-! ### Ford table entries (R195) -/

def fordBase (w : Word × Word) : Nat := fld w.1 31 0
def fordSize (w : Word × Word) : Nat := fld w.1 63 32
def fordGuest (w : Word × Word) : Bool := bitOf w.2 17
def fordReduce (w : Word × Word) : Bool := bitOf w.2 16
def fordTarget (w : Word × Word) : Nat := fld w.2 15 0

/-- Ford n of the loaded table. -/
def Core.fordEntry (k : Core) (n : Nat) : Option (Word × Word) := k.img.fords[n]?

def FordSt.zero : FordSt := ⟨0, 0, [], 0⟩

def Core.ford (k : Core) (n : Nat) : FordSt := k.fords.getD n .zero

/-- A Ford is fired while it is armed and C ≥ T (R196). -/
def FordSt.fired (f : FordSt) : Bool := decide (f.target ≠ 0) && decide (f.target.toNat ≤ f.count.toNat)

def Core.modFord (k : Core) (n : Nat) (f : FordSt → FordSt) : Core := { k with fords := k.fords.modify n f }

/-- A Ford that now fires, and did not before, fixes its batch size: bits [6:0] of its header word (R102). -/
def Core.fireFord (k : Core) (n : Nat) (before : Bool) : Core :=
  if (k.ford n).fired && !before then
    k.modFord n fun f => { f with
      batch := BitVec.ofNat 7 (fld (k.store.word (fordBase ((k.fordEntry n).getD (0, 0)))) 6 0) }
  else k

/-! ### The skew writer (R76, R94, R136, R219) -/

/-- Parts of an element that the skew writer lays: 2 where the destination's pitch is twice the line of R76, which asks for a
complex image whose interleaved source pairs are split (R136; DESIGN CHOICE, log entry 32), else 1. -/
def skewParts (wide : Bool) (f : Fmt) (dp : Nat) : Nat := if dp = 2 * (lineElems wide * f.bytes) then 2 else 1

/-- Destination and source offsets of a copy, byte by byte, in source order (R205, R219). -/
def copyPairs (k : Core) : Payload → List (Nat × Nat)
  | .copy _ sp rows rb dp skew e wide f =>
    let fm := (Fmt.ofCode f).getD .df8
    let w := fm.bytes
    let c := skewParts wide fm dp
    let l := lineElems wide * w
    (List.range rows).flatMap fun r => (List.range rb).map fun q =>
      let el := q / w / c
      let part := q / w % c * l + q % w
      let d :=
        match skew with
        | 0 => r * dp + q
        | 1 => (el + k.skewRow (cellOf wide r)) * (l * c) + r * w + part
        | _ => (r + k.skewCol e (cellOf wide el)) * (l * c) + el * w + part
      (d, r * sp + q)
  | .data _ _ _ _ _ _ => []

/-- Bytes past the destination's start that a copy can reach: rows and pitch, or the K extent plus the largest skew, in lines
(R205, R219). -/
def copyExtent (k : Core) : Payload → Nat
  | .copy _ _ rows rb dp skew e wide f =>
    if rows = 0 ∨ rb = 0 then 0
    else
      let fm := (Fmt.ofCode f).getD .df8
      let c := skewParts wide fm dp
      let n := rb / (fm.bytes * c)
      let l := lineElems wide * fm.bytes * c
      match skew with
      | 0 => (rows - 1) * dp + rb
      | 1 => (n + maxSkew wide k.skewRow rows) * l
      | _ => (rows + maxSkew wide (k.skewCol e) n) * l
  | .data bs _ _ _ _ _ => bs.foldl (fun m b => max m (b.1 + 1)) 0

/-! ### Bytes of a transfer -/

def State.locByte (s : State) : Loc → Nat → Byte
  | .fabric a, q => s.mem.rd (a + q)
  | .store c off, q => ((s.core? c).getD .reset).store.rd (off + q)
  | .ford _ _ _, _ => 0

/-- The core a transfer's bytes arrive in. -/
def Transfer.dstCore (x : Transfer) : Option Nat :=
  match x.dst with
  | .fabric _ => none
  | .store c _ => some c
  | .ford c _ _ => some c

/-- Whether nothing is moved: the pure signal of R207. -/
def Transfer.isEmpty (x : Transfer) : Bool :=
  match x.load with
  | .copy _ _ rows rb _ _ _ _ _ => rows == 0 || rb == 0
  | .data _ _ _ _ _ _ => false

/-- The bytes a transfer writes, at offsets from its destination, once its source has been read; the skew writer lays them
under the skews in force (R94). -/
def Transfer.bytes (x : Transfer) (s : State) : List (Nat × Byte) :=
  match x.load with
  | .copy src a b c d e f g h =>
    ((copyPairs ((x.dstCore.bind s.core?).getD .reset) (.copy src a b c d e f g h)).zip x.data).map fun p => (p.1.1, p.2)
  | .data bs _ _ _ _ _ => bs

/-- Offsets of the source bytes, in source order: row by row, ascending (R336). -/
def Payload.srcOffs : Payload → List Nat
  | .copy _ sp rows rb _ _ _ _ _ => (List.range rows).flatMap fun r => (List.range rb).map fun q => r * sp + q
  | .data _ _ _ _ _ _ => []

/-- Lines of 64 bytes that a transfer's source order makes (R337). -/
def Payload.lines : Payload → Nat
  | .copy _ _ rows rb _ _ _ _ _ => (rows * rb + 63) / 64
  | .data bs _ _ _ _ _ => (bs.length + 63) / 64

/-- Whether a source byte lies in a word of a store that is marked uncorrectable (R216). Of fabric memory the lines that return
flagged, or not at all, say what is bad (R355, R356). -/
def State.badByte (s : State) : Loc → Nat → Bool
  | .fabric _, _ => false
  | .store c off, q => (((s.core? c).getD .reset).bad).contains ((off + q) / 8)
  | .ford _ _ _, _ => false

/-- Whether some byte of a range is bad: a flagged line, a granule of a withdrawn port, a marked word. -/
def State.badRange (s : State) (l : Loc) (q n : Nat) : Bool :=
  if n = 0 then false
  else match l with
    | .fabric a => s.lostRange (a + q) n
        || s.flagged.any fun x => decide ((a + q) / 64 ≤ x) && decide (x ≤ (a + q + n - 1) / 64)
    | .store c off => ((s.core? c).getD .reset).bad.any fun x =>
        decide ((off + q) / 8 ≤ x) && decide (x ≤ (off + q + n - 1) / 8)
    | .ford _ _ _ => false

/-- A transfer cannot go on: some of its source bytes are still to be read, or it received uncorrectable data, which
UNCORRECTABLE_DATA ends (R336). -/
def Transfer.blocked (x : Transfer) : Bool := x.sent.isNone || x.badAt.isSome

/-! ### Guest deliveries (R117) -/

/-- The share entry of the sealed policy that pairs an owner and a guest for an image. -/
def State.shares (s : State) (owner guest img : Nat) : Bool :=
  (List.range 16).any fun i =>
    let w := s.share i
    bitOf w 63 && fld w 59 56 == owner && fld w 47 32 == img && (fld w 15 0).testBit guest

/-- Slot record fields (R271). -/
def recValid (w : Word) : Bool := bitOf w 47
def recFill (w : Word) : Bool := bitOf w 46
def recImage (w : Word) : Nat := fld w 63 48
def recClass (w : Word) : Nat := fld w 45 43
def recSrc (w : Word) : Nat := 64 * fld w 40 6

/-- The record that a pass reading a page of a class finds for a slot: of the half for a 4-bit page, and only of the page's
own class there (R100). -/
def Core.slotRec (k : Core) (cls page slot : Nat) : Word :=
  let r := Tab.get (0, 0) k.plain.recs slot
  if cls = 0 then (if page % 2 = 0 then r.1 else r.2) else r.1

/-- A record that a pass of class cls reads under: of the half for a 4-bit page, of the whole slot for any other (log entry
15). -/
def recServes (cls : Nat) (r : Word) : Bool := recValid r && (recClass r == 0) == (cls == 0)

/-- Every slot that a page occupies has a record (R100, R101). -/
def Core.pageReady (k : Core) (cls page : Nat) : Bool :=
  (pageSlots cls page).all fun sl => recServes cls (k.slotRec cls page sl)

/-- Whether Ford n of a core accepts guest vectors of tenant t: some DPASS of the program names it with its share bit, and
every slot that DPASS reads holds a record of FILL_PAGES naming one image, which the policy shares with t (R117). Where several name
the Ford with their share bit, one that qualifies is enough (DESIGN CHOICE, unsafe, log entry 14). -/
def State.guestOk (s : State) (k : Core) (owner t n : Nat) : Bool :=
  ((k.fordEntry n).map fordGuest).getD false &&
  k.img.instrs.any fun i =>
    decide (i.op? = some .dpass) && i.share && i.guestFord == n &&
    (let cls := classOf i.fW
     let rs := (pageSlots cls i.page).map fun sl => k.slotRec cls i.page sl
     let img := recImage (rs.headD 0)
     rs.all (fun r => recServes cls r && recFill r && recImage r == img) && s.shares owner t img)

/-! ### Acceptance at the receiving core (R197, R198, R225, R226, R342) -/

/-- Layout of a DX16 drain: offset, M, N, pitch (R226). -/
def reduceWords (off n m pitch : Nat) : List Word :=
  [word (1 <<< 56), word (put 63 40 pitch + put 39 30 n + put 29 21 m), word (put 31 0 off), 0, 0, 0, 0, 0]

/-- An arrival is the first of its round when T is 0 or C is a multiple of T (R227). -/
def FordSt.first (f : FordSt) : Bool := f.target == 0 || f.count.toNat % f.target.toNat == 0

/-- Why the receiving core refuses a delivery; none where it accepts it. -/
def Transfer.refusal (x : Transfer) (s : State) : Option Status :=
  match x.dstCore with
  | none => none
  | some c =>
    let k := (s.core? c).getD .reset
    let guest := match x.dst, s.boundTo c with
      | .ford _ n _, some o => decide (o ≠ x.tenant) && s.guestOk k o x.tenant n
      | _, _ => false
    if k.rep.coreFenced then some .faultFenced
    else if decide (s.boundTo c ≠ some x.tenant) && !guest then some .notPermitted
    else
      match x.dst with
      | .ford _ n off =>
        match k.fordEntry n with
        | none => some .malformed
        | some w =>
          let f := k.ford n
          if f.count.toNat = 0xFFFFFF then some .malformed
          else if decide (copyExtent k x.load ≠ 0) && decide (fordSize w < off + copyExtent k x.load) then some .malformed
          else if fordReduce w then
            match x.load with
            | .data _ true nc m pitch _ =>
              if off < 64 then some .malformed
              else if !f.first && decide ((k.store.words (fordBase w) 3).drop 1 ≠ ((reduceWords off nc m pitch).drop 1).take 2) then
                some .malformed
              else none
            | _ => some .malformed
          else none
      | _ => none

/-! ### Landing -/

def State.xfer? (s : State) (x : Nat) : Option Transfer := s.blk.xfers.find? (·.id == x)

def State.dropXfer (s : State) (x : Nat) : State :=
  { s with blk := { s.blk with xfers := s.blk.xfers.filter fun y => decide (y.id ≠ x) } }

/-- Write bytes into a core's store; a write of all eight bytes of a marked word clears its mark (R216). -/
def Core.wrStore (k : Core) (bs : List (Nat × Byte)) : Core :=
  let cleared := k.bad.filter fun w =>
    !((List.range 8).all fun i => bs.any fun b => b.1 == 8 * w + i)
  { k with store := k.store.wrAll bs, bad := cleared }

/-! ### Uncorrectable words of a store (R216, R333, R338, R350) -/

/-- Count one more of a health counter (R350). -/
def bump16 (x : BitVec 16) : BitVec 16 := BitVec.ofNat 16 (satAdd 16 x.toNat 1)

/-- A line waits for its remap (R338). -/
def Core.askRemap (k : Core) (line : Nat) : Core :=
  if k.rep.remap.contains line then k else { k with rep := { k.rep with remap := k.rep.remap ++ [line] } }

/-- An uncorrectable word of the store has been found: it is counted and marked, it is the core's last detection, and its line
asks for a remap (R216, R333, R338, R350). -/
def Core.markBad (k : Core) (now w : Nat) : Core :=
  { k with eccUnc := bump16 k.eccUnc, bad := if k.bad.contains w then k.bad else k.bad ++ [w]
           rep := { k.rep with lastDet := some (.line (w / 8), now) } }.askRemap (w / 8)

/-- The first marked word of which a byte is read. -/
def Core.badAt (k : Core) (reads : Nat → Bool) : Option Nat := k.bad.find? fun w => (List.range 8).any fun i => reads (8 * w + i)

/-- The first marked word that some of the byte ranges touch. -/
def Core.badIn (k : Core) (rs : List (Nat × Nat)) : Option Nat := k.badAt (inRanges rs)

/-- The first byte of a write that falls into a marked word without replacing all of it, by its place in the list, and the
word (R216). -/
def Core.maskedBad (k : Core) (bs : List (Nat × Byte)) : Option (Nat × Nat) :=
  if k.bad.isEmpty then none
  else ((List.range bs.length).zip bs).findSome? fun e =>
    let w := e.2.1 / 8
    if k.bad.contains w && !((List.range 8).all fun i => bs.any fun b => b.1 == 8 * w + i) then some (e.1, w) else none

/-- Write bytes up to the first that a marked word holds back; the core as the write leaves it, and whether it was held back
(R216, R336). -/
def Core.tryStore (k : Core) (now : Nat) (bs : List (Nat × Byte)) : Core × Bool :=
  match k.maskedBad bs with
  | none => (k.wrStore bs, false)
  | some (n, w) => ((k.wrStore (bs.take n)).markBad now w, true)

/-- Write bytes into fabric memory; a line written whole is flagged no more. -/
def State.wrFabric (s : State) (bs : List (Nat × Byte)) : State :=
  { s with
    mem := s.mem.wrAll bs
    flagged := s.flagged.filter fun l => !((List.range 64).all fun i => bs.any fun b => b.1 == 64 * l + i) }

def shift (a : Nat) (bs : List (Nat × Byte)) : List (Nat × Byte) := bs.map fun b => (a + b.1, b.2)

/-- A drain whose elements have reached their destination awaits its status word. -/
def Flight.landed (f : Flight) : Flight :=
  match f.work with
  | .drain d => { f with work := .drain { d with ph := .delivered } }
  | _ => f

/-- What the sender does once its transfer has been written and counted: an XFER retires, a drain goes on to its status
word, a MOVE completes (R188, R254). -/
def State.xferDone (s : State) (x : Transfer) : State :=
  let s := s.dropXfer x.id
  match x.owner with
  | .instr c f _ =>
    s.modCore c fun k =>
      match k.flight? f with
      | some ⟨_, _, .drain _⟩ => { k with flight := k.flight.map fun y => if y.id = f then y.landed else y }
      | _ => k.retire f
  | .packet pk =>
    match s.pkt? pk with
    | some p => s.complete p .ok 0 0 0
    | none => s
  | .quiet _ _ _ => s

/-- End the program of core c with a status at an index, if the core runs (R194). -/
def State.endCore (s : State) (c idx : Nat) (st : Status) : State :=
  s.modCore c fun k => if k.run.state = .running then k.endWith st idx else k

/-- What the sender does with a refusal or a loss: its program ends, or its command completes, with the status (R194, R225). A
guest return, or the signal of a zero-length XFER, ends the program of the instruction that sent it while that run lasts, and
nothing later: R197 does not say what a refusal of the signal ends once that run is over (DESIGN CHOICE, unsafe, log entry
16). The detail of a MOVE's failure is given by the caller. -/
def State.xferFail (s : State) (x : Transfer) (st : Status) (dkind detail : Nat) : State :=
  let s := s.dropXfer x.id
  match x.owner with
  | .instr c f idx =>
    let k := s.core c
    ((s.mergePoison c k.run.tenant (k.flight? f).toList).modCore c fun k => k.retire f).endCore c idx st
  | .packet pk =>
    match s.pkt? pk with
    | some p => s.complete p st dkind detail 0
    | none => s
  | .quiet c run idx => if (s.core c).run.runs.toNat = run then s.endCore c idx st else s

/-- Byte n of a copy's source, where the copy reads the written ranges of core c's store, is free (R190). -/
def Transfer.spoil (x : Transfer) (free c : Nat) (rs : List (Nat × Nat)) : Transfer :=
  match x.load with
  | .copy (.store d off) _ _ _ _ _ _ _ _ =>
    let data := ((List.range x.data.length).zip (x.load.srcOffs.zip x.data)).map fun e =>
      if inRanges rs (off + e.2.1) then Config.racedByte (free + e.1) else e.2.2
    if d = c then { x with data := data } else x
  | _ => x

/-- Whether a copy that is on its way reads some of the written ranges of core c's store. -/
def Transfer.reads (x : Transfer) (c : Nat) (rs : List (Nat × Nat)) : Bool :=
  match x.load with
  | .copy (.store d off) _ _ _ _ _ _ _ _ =>
    decide (d = c) && !x.data.isEmpty && x.load.srcOffs.any fun q => inRanges rs (off + q)
  | _ => false

/-- Bytes of core c's store are written: what still reads them reads undefined bytes, passes, drains and copies alike, but for
what an order ties to the writer (R190). -/
def State.touch (s : State) (c : Nat) (w : Writer) (rs : List (Nat × Nat)) : State :=
  if rs.isEmpty then s else
  let s := { s.modCore c fun k => k.touch w s.free rs with
    free := if decide (w ≠ Writer.drain) && (s.core c).flight.any (Flight.marked rs) then s.free + bankRows else s.free }
  if s.blk.xfers.any fun x => x.reads c rs then
    { s with
      free := s.free + s.blk.xfers.foldl (fun n x => max n x.data.length) 0
      blk := { s.blk with xfers := s.blk.xfers.map fun x => if x.reads c rs then x.spoil s.free c rs else x } }
  else s

/-- Write bytes into core c's store up to the first that a marked word holds back, and whether it was held back (R190, R216). -/
def State.putStore (s : State) (c : Nat) (bs : List (Nat × Byte)) : State × Bool :=
  let r := (s.core c).tryStore s.now bs
  ((s.setCore c r.1).touch c .other (runsIn (bs.map (·.1))), r.2)

/-- Write a transfer's bytes at a store or Ford, clear of counting, and go on; a marked word that they would replace in part
holds back what follows, and the sender ends with FAULT_FENCED (R216, R336). -/
def State.writeAt (s : State) (x : Transfer) (c base : Nat) (next : State → State) : State :=
  let r := (s.dropXfer x.id).putStore c (shift base (x.bytes s))
  if r.2 then r.1.xferFail x .faultFenced 0 0 else next r.1

/-- Base in the store of a Ford destination. -/
def State.fordAddr (s : State) (c n off : Nat) : Nat :=
  fordBase ((((s.core? c).getD .reset).fordEntry n).getD (0, 0)) + off

/-- Bytes of a guest Ford come from tenant t: earlier deliveries that they cover are forgotten. -/
def FordSt.deliver (f : FordSt) (t : Nat) (rs : List (Nat × Nat)) : FordSt :=
  { f with guests := (f.guests.filter fun e =>
      !(rs.any fun r => decide (r.1 ≤ e.2.1) && decide (e.2.1 + e.2.2 ≤ r.1 + r.2))) ++ rs.map fun r => (t, r.1, r.2) }

/-- The tenant that delivered the byte at an offset of a guest Ford last. -/
def FordSt.sender (f : FordSt) (off : Nat) : Nat :=
  ((f.guests.filter fun e => decide (e.2.1 ≤ off) && decide (off < e.2.1 + e.2.2)).getLast?.map (·.1)).getD 0

/-- Count one arrival, remembering whose bytes a guest Ford holds (R117, R196). -/
def State.countArrival (s : State) (x : Transfer) (c n off : Nat) : State :=
  s.modCore c fun k =>
    let rs := if ((k.fordEntry n).map fordGuest).getD false then runsIn ((x.bytes s).map fun b => off + b.1) else []
    (k.modFord n fun f => { f.deliver x.tenant rs with count := f.count + 1 }).fireFord n (k.ford n).fired

/-! ### Reduce on arrival (R227, R228) -/

/-- N / 2^d to the nearest integer, ties to even. -/
def rneShift (n : Int) (d : Nat) : Int :=
  let q : Int := roundQuanta n.natAbs 0 d .rne 0
  if n < 0 then -q else q

/-- The 16-bit code of a significand. -/
def sigCode (k : Int) : Nat := intCode 16 k

/-- REDUCE_BLOCK of R227: significands, exponent byte, saturated, poisoned elements. -/
def reduceBlock (mr : List Nat) (xr : Nat) (ma : List Nat) (xa : Nat) : List Nat × Nat × Bool × Nat :=
  let x := max xr xa
  let d := x - min xr xa
  let bad := fun p : Nat × Nat => p.1 == 0x8000 || p.2 == 0x8000
  let ps := mr.zip ma
  let sum := fun p : Nat × Nat => signedOf 16 p.1 * (2 ^ (d - (x - xr)) : Nat) + signedOf 16 p.2 * (2 ^ (d - (x - xa)) : Nat)
  let out := ps.any fun p => !bad p && decide (32767 < (rneShift (sum p) d).natAbs)
  let poison := (ps.filter bad).length
  if out && x == 255 then
    (ps.map fun p => if bad p then 0x8000 else sigCode (max (-32767) (min 32767 (rneShift (sum p) d))), 255, true, poison)
  else
    let d' := if out then d + 1 else d
    (ps.map fun p => if bad p then 0x8000 else sigCode (rneShift (sum p) d'), if out then x + 1 else x, false, poison)

/-- Apply one block of an arrival: row i, block b of N columns; `es` the written elements as offsets of significand and
exponent (R227). -/
def reduceOne (m : Mem) (base nc mTot pitch : Nat) (bs : List (Nat × Byte)) (es : List (Nat × Nat)) (i b : Nat) :
    Mem × Bool × Nat :=
  let cols := (List.range 32).filter fun j => decide (32 * b + j < nc)
  let xo := pitch * mTot + 16 * i + b
  let so := fun j => i * pitch + 2 * (32 * b + j)
  let written := fun j => es.any fun e => e.1 == so j && e.2 == xo
  let byteAt := fun o => ((bs.find? (·.1 == o)).map (·.2)).getD 0
  if !cols.any written then (m, false, 0)
  else
    let ma := cols.map fun j => if written j then (byteAt (so j)).toNat + 256 * (byteAt (so j + 1)).toNat else 0
    let mr := cols.map fun j => m.num (base + so j) 2
    let r := reduceBlock mr (m.rd (base + xo)).toNat ma (byteAt xo).toNat
    let ws := (cols.zip r.1).flatMap fun e => numBytes (base + so e.1) 2 e.2
    (m.wrAll (ws ++ [(base + xo, BitVec.ofNat 8 r.2.1)]), r.2.2.1, r.2.2.2)

/-- Byte ranges of a reduce Ford that an arrival of N columns by M rows reads and writes: the status line, its rows of significands
and its exponents (R226, R227). -/
def reduceRows (line off nc mTot pitch : Nat) : List (Nat × Nat) :=
  (line, 64) :: (List.range mTot).flatMap fun i =>
    [(line + off + i * pitch, 2 * nc), (line + off + pitch * mTot + 16 * i, (nc + 31) / 32)]

/-- A marked word that an arrival meets: one that the first of a round would replace in part, or one among those that a later
arrival reads, its rows of significands and exponents, and the status line (R216, R227). -/
def reduceBad (k : Core) (n line off : Nat) (bs : List (Nat × Byte)) (nc mTot pitch : Nat) : Option Nat :=
  if (k.ford n).first then (k.maskedBad (shift (line + off) bs ++ wordBytes line (reduceWords off nc mTot pitch))).map (·.2)
  else k.badIn (reduceRows line off nc mTot pitch)

/-- Application of an arrival to a reduce Ford: verbatim as the first of its round, block by block as a later one, with the
status line (R227, R228). `line` is the Ford's base and `base` the place of the arrival's offset. -/
def reduceApply (k : Core) (n : Nat) (line off : Nat) (bs : List (Nat × Byte)) (nc mTot pitch : Nat) (es : List (Nat × Nat)) :
    Core :=
  let base := line + off
  if (k.ford n).first then
    k.wrStore (shift base bs ++ wordBytes line (reduceWords off nc mTot pitch))
  else
    let blocks := (List.range mTot).flatMap fun i => (List.range ((nc + 31) / 32)).map fun b => (i, b)
    let r := blocks.foldl (fun (acc : Mem × Nat × Nat) x =>
      let o := reduceOne acc.1 base nc mTot pitch bs es x.1 x.2
      (o.1, acc.2.1 + o.2.1.toNat, acc.2.2 + o.2.2)) (k.store, 0, 0)
    let w := k.store.word line
    let sat := bitOf w 0 || decide (0 < r.2.1)
    let w' := word (put 63 56 1 + put 55 40 (satAdd 16 (fld w 55 40) r.2.1) + put 39 24 (satAdd 16 (fld w 39 24) r.2.2)
      + sat.toNat)
    { k with store := r.1.wrAll (numBytes line 8 w'.toNat) }

/-! ### The order of sending (R224) -/

/-- The unit that sends: the DMA of a core, or the data-move engine of a command processor. -/
def State.sender (s : State) : Owner → Bool × Nat
  | .instr c _ _ | .quiet c _ _ => (false, c)
  | .packet pk => (true, ((s.pkt? pk).map fun p => if p.half = .east then 1 else 0).getD 0)

/-- No transfer that the same unit sent earlier to the same core is still on its way. -/
def State.inTurn (s : State) (x : Transfer) : Bool :=
  match x.sent with
  | none => false
  | some n => s.blk.xfers.all fun y =>
      !(decide (y.dstCore = x.dstCore) && decide (s.sender y.owner = s.sender x.owner) && (y.sent.map fun m => decide (m < n)).getD false)

/-- Whether the receiving unit may take a transfer: its bytes are at hand and it is its turn. -/
def State.ready (s : State) (x : Transfer) : Bool := !x.blocked && s.inTurn x

/-! ### Lines at the memory ports (R218, R231, R232, R265, R355, R356) -/

/-- Lines that hold bytes of a list of ranges, each once, as fabric addresses divided by 64. -/
def linesOf (rs : List (Nat × Nat)) : List Nat :=
  (rs.flatMap fun r => if r.2 = 0 then [] else (List.range ((r.1 + r.2 - 1) / 64 - r.1 / 64 + 1)).map (r.1 / 64 + ·)).eraseDups

/-- Lines that a transfer reads from fabric memory. -/
def Transfer.readLines (x : Transfer) : List Nat :=
  match x.load with
  | .copy (.fabric a) sp rows rb _ _ _ _ _ => linesOf ((List.range rows).map fun r => (a + r * sp, rb))
  | _ => []

/-- Lines that a transfer writes into fabric memory. -/
def Transfer.lines (x : Transfer) : List Nat :=
  match x.dst, x.load with
  | .fabric a, .copy _ _ rows rb dp _ _ _ _ => linesOf ((List.range rows).map fun r => (a + r * dp, rb))
  | .fabric a, .data bs _ _ _ _ _ => linesOf (bs.map fun b => (a + b.1, 1))
  | _, _ => []

/-- Whether a transfer writes the byte at a fabric address. -/
def Transfer.writesAt (x : Transfer) (b : Nat) : Bool :=
  match x.dst, x.load with
  | .fabric a, .copy _ _ rows rb dp _ _ _ _ => (List.range rows).any fun r => decide (a + r * dp ≤ b) && decide (b < a + r * dp + rb)
  | .fabric a, .data bs _ _ _ _ _ => bs.any fun e => a + e.1 == b
  | _, _ => false

/-- The core whose DMA issues a transfer's lines; none for a data-move engine. -/
def Owner.core? : Owner → Option Nat
  | .instr c _ _ | .quiet c _ _ => some c
  | .packet _ => none

/-- Runs of consecutive lines within one granule: the read requests that a list of lines makes (R232). -/
def runsOf (owner : Nat) (core : Option Nat) (ls : List Nat) : List Lines :=
  ls.foldr (fun l acc =>
    match acc with
    | r :: t => if l + 1 = r.line ∧ l / 64 = r.line / 64 then { r with line := l, n := r.n + 1 } :: t else ⟨owner, core, l, 1⟩ :: acc
    | [] => [⟨owner, core, l, 1⟩]) []

def MemPort.readsOut (p : MemPort) : Nat := p.rdq.foldl (fun n r => n + r.left) 0

/-- Lines of core c outstanding at the memory ports. -/
def State.linesOut (s : State) (c : Nat) : Nat :=
  s.blk.ports.foldl (fun n p =>
    n + (p.wrq.filter fun l => l.core == some c).length
      + (p.rdq.filter fun r => r.core == some c).foldl (fun m r => m + r.left) 0) 0

/-- Lines that a core may still put out: 32 q in all where its tenant's owner has port_share q above 0 (R265); more than any
port holds elsewhere. -/
def State.lineRoom (s : State) (core : Option Nat) : Nat :=
  match core with
  | none => 512
  | some c =>
    match s.boundTo c with
    | none => 512
    | some t =>
      let q := s.hostPortShare (s.tenOwner t)
      if q = 0 then 512 else 32 * q - s.linesOut c

def State.modPort (s : State) (q : Nat) (f : MemPort → MemPort) : State :=
  { s with blk := { s.blk with ports := s.blk.ports.modify q f } }

def State.port (s : State) (q : Nat) : MemPort := s.blk.ports.getD q default

/-- A port that takes requests: its group is ON and it is not withdrawn (R235, R356). -/
def State.portUp (s : State) (q : Nat) : Bool := s.domOn (s.domGroup (q / 5)) && !s.aon.withdrawn.contains q

/-- A line of fabric memory that a transfer reads returns flagged, or does not return: uncorrectable data from its first byte in
source order on (R336, R356). -/
def Transfer.loseLine (x : Transfer) (l : Nat) : Transfer :=
  match x.load with
  | .copy (.fabric a) _ _ _ _ _ _ _ _ => { x with badAt := minOpt x.badAt (x.load.srcOffs.findIdx? fun q => decide ((a + q) / 64 = l)) }
  | _ => x

/-- A half of the fill buffer whose read `owner` has lost a line holds uncorrectable data. -/
def Staged.lose (owner : Nat) (h : Staged) : Staged := if h.reads = owner then { h with bad := true } else h

/-- Lines that a transfer, or a read of a fill buffer, has asked for return flagged, or do not return (R336, R356). -/
def State.badLines (s : State) (owner : Nat) (ls : List Nat) : State :=
  if ls.isEmpty then s
  else { s with blk := { s.blk with
    xfers := s.blk.xfers.map fun x => if x.id = owner then ls.foldl Transfer.loseLine x else x
    cores := s.blk.cores.map fun k => { k with plain := { k.plain with
      halfA := k.plain.halfA.map (Staged.lose owner), halfB := k.plain.halfB.map (Staged.lose owner) } } } }

/-- Issue what the port and the core have room for of one read run: at most 64 lines in a request and 256 outstanding on a port
(R232, R355). What is left waits; toward a withdrawn port nothing is issued, and those lines are lost (R356). -/
def State.issueRead (s : State) (l : Lines) : State × Option Lines :=
  let p := portOf s.aon.listA (64 * l.line)
  let mp := s.port p.1
  let n := min l.n (min (256 - mp.readsOut) (s.lineRoom l.core))
  if s.aon.withdrawn.contains p.1 then (s.badLines l.owner ((List.range l.n).map (l.line + ·)), none)
  else if !s.portUp p.1 || n = 0 then (s, some l)
  else
    let tag := ((List.range (mp.rdq.length + 1)).find? fun i => mp.rdq.all fun r => r.tag != i).getD 0
    (s.modPort p.1 fun m => { m with rdq := m.rdq ++ [⟨tag, l.owner, l.core, p.2 / 64, 0, n⟩] },
      if n < l.n then some { l with line := l.line + n, n := l.n - n } else none)

/-- Write lines of a port that will not complete are uncorrectable data for their transfers, from the first byte in source order
that lies in one of them (R336, R356). -/
def State.loseLines (s : State) (ls : List Lines) : State :=
  { s with blk := { s.blk with xfers := s.blk.xfers.map fun x =>
      let own := (ls.filter (·.owner == x.id)).map (·.line)
      if own.isEmpty then x
      else match x.dst with
        | .fabric a => { x with badAt := minOpt x.badAt ((x.bytes s).findIdx? fun b => own.contains ((a + b.1) / 64)) }
        | _ => x } }

/-- Issue one write line, at most 256 outstanding on a port (R355); one toward a withdrawn port is lost to its transfer. -/
def State.issueWrite (s : State) (l : Lines) : State × Option Lines :=
  let q := (portOf s.aon.listA (64 * l.line)).1
  if s.aon.withdrawn.contains q then
    (s.loseLines [l], none)
  else if !s.portUp q || decide (256 ≤ (s.port q).wrq.length) || decide (s.lineRoom l.core = 0) then (s, some l)
  else (s.modPort q fun m => { m with wrq := m.wrq ++ [l] }, none)

/-- One entry of a queue of lines: a core, or a data-move engine's transfer, issues its lines in order and waits by handshake
(R218, R265). -/
def pumpOne (issue : State → Lines → State × Option Lines) (a : State × List Lines) (l : Lines) : State × List Lines :=
  if a.2.any fun y => decide (y.core = l.core) && (l.core.isSome || y.owner == l.owner) then (a.1, a.2 ++ [l])
  else
    let r := issue a.1 l
    (r.1, a.2 ++ r.2.toList)

def State.pumpReads (s : State) : State :=
  let r := s.blk.readQ.foldl (pumpOne State.issueRead) (s, [])
  { r.1 with blk := { r.1.blk with readQ := r.2 } }

def State.pumpWrites (s : State) : State :=
  let r := s.blk.writeQ.foldl (pumpOne State.issueWrite) (s, [])
  { r.1 with blk := { r.1.blk with writeQ := r.2 } }

/-- Whether lines that an owner reads, or writes, have not returned. -/
def State.readsLeft (s : State) (x : Nat) : Bool :=
  s.blk.readQ.any (·.owner == x) || s.blk.ports.any fun p => p.rdq.any (·.owner == x)

def State.linesLeft (s : State) (x : Nat) : Bool :=
  s.blk.writeQ.any (·.owner == x) || s.blk.ports.any fun p => p.wrq.any (·.owner == x)

/-! ### Unordered reads (R190, R237) -/

/-- Byte ranges of core c's store that a transfer still owes it. -/
def Transfer.owes (x : Transfer) (s : State) (c : Nat) : List (Nat × Nat) :=
  if x.dstCore ≠ some c || (x.refusal s).isSome then []
  else
    let at_ := match x.dst with | .ford d n off => s.fordAddr d n off | .store _ off => off | .fabric _ => 0
    let offs : List Nat := match x.load with
      | .copy _ _ _ _ _ _ _ _ _ => (copyPairs (s.core c) x.load).map fun e => e.1
      | .data bs _ _ _ _ _ => bs.map fun e => e.1
    runsIn (offs.map (at_ + ·))

/-- Who reads bytes of a store: drains follow one another in program order (R159), spills and refills on their path (R88); a copy
is no write of what it reads itself. -/
inductive Reader where
  | pass | drain | refill | copy (x : Nat)
  deriving DecidableEq, Repr

/-- Byte ranges of core c's store that started instructions still owe it, for a reader that no order ties to them: transfers toward
it, its spills, its drains, and its Plain passes, which add into rows of the sum extension (R104, R190). No pass reads rows but
those that it adds into itself, in program order (R111). -/
def State.owed (s : State) (c : Nat) (r : Reader) : List (Nat × Nat) :=
  (s.blk.xfers.filter fun x => decide (r ≠ .copy x.id)).flatMap (fun x => x.owes s c) ++ (s.core c).flight.flatMap fun f =>
    match f.work with
    | .spill _ _ a _ => if r = .refill then [] else [(a, recBytes)]
    | .drain d => if r = .drain then [] else d.writes
    | .plainPass _ _ _ _ _ _ _ => if r = .pass then [] else (s.core c).passAdds f.id
    | _ => []

/-- Whether some byte that an instruction of core c reads is still owed to the store: it reads undefined bytes (R190). -/
def State.unordered (s : State) (c : Nat) (r : Reader) (reads : Nat → Bool) : Bool := hits (s.owed c r) reads

/-- A started drain whose elements for fabric memory have not left, over the byte at a fabric address. -/
def Flight.drainOver (b : Nat) (f : Flight) : Bool :=
  match f.work with
  | .drain d => !d.sent && d.ti.dKind == 0 && decide (d.ti.dDst ≤ b) && decide (b < d.ti.dDst + d.span)
  | _ => false

/-- Whether a source byte of transfer x is read in no order with another transfer's or drain's write of it, or a spill's: the read
yields an undefined byte (R190, R237). `owed` are the ranges that others owe the store that holds it. -/
def State.raced (s : State) (x : Transfer) (owed : List (Nat × Nat)) (src : Loc) (q : Nat) : Bool :=
  match src with
  | .fabric a =>
    x.race.contains (a + q) || s.blk.xfers.any (fun y => y.id != x.id && y.writesAt (a + q))
      || s.blk.cores.any fun k => k.flight.any (Flight.drainOver (a + q))
  | .store _ off => inRanges owed (off + q)
  | .ford _ _ _ => false

/-- The source bytes of a transfer at the moment its last line has been read: the bytes, a free one where the read is
unordered (log entry 32), and the place of the first bad one. -/
def State.sourceBytes (s : State) (x : Transfer) : List Byte × Option Nat :=
  match x.load with
  | .copy src _ _ _ _ _ _ _ _ =>
    let offs := x.load.srcOffs
    let owed := match src with | .store c _ => s.owed c (.copy x.id) | _ => []
    (((List.range offs.length).zip offs).map fun e =>
        if s.raced x owed src e.2 then Config.racedByte (s.free + e.1) else s.locByte src e.2,
     offs.findIdx? fun q => s.badByte src q)
  | .data _ _ _ _ _ _ => ([], none)

/-! ### Progress of transfers -/

/-- A transfer whose last source line has been read is sent, and its write lines wait to be issued, unless it holds bad data
(R224, R232, R336). -/
def State.sendXfer (s : State) (x : Transfer) : State :=
  let b := s.sourceBytes x
  let y := { x with data := b.1, badAt := minOpt x.badAt b.2, sent := some s.blk.nextSend }
  { s with
    free := s.free + b.1.length
    blk := { s.blk with
      nextSend := s.blk.nextSend + 1
      xfers := s.blk.xfers.map fun z => if z.id = x.id then y else z
      writeQ := s.blk.writeQ ++ (if y.badAt.isSome then [] else x.lines.map fun l => ⟨x.id, x.owner.core?, l, 1⟩) } }

/-- Bytes of fabric memory that are not zero, with their offsets. -/
def State.readFabric (s : State) (a n : Nat) : List (Nat × Byte) :=
  (s.mem.filter fun b => decide (a ≤ b.1) && decide (b.1 < a + n)).map fun b => (b.1 - a, b.2)

/-- Bytes of one part of a page (R201). -/
def partBytes (cls : Nat) : Nat := if cls = 3 then 65536 else pageBytes cls

/-- A half of the fill buffer whose last line has been read holds its part (R100). -/
def State.stagedIn (s : State) (p : PlainSt) (h : Staged) : Staged :=
  match h.data, p.fills.find? (·.id == h.fill) with
  | none, some f =>
    if s.readsLeft h.reads then h
    else { h with data := some (s.readFabric (f.src + 65536 * h.part) (partBytes f.cls)) }
  | _, _ => h

def State.stageArrivals (s : State) : State :=
  { s with blk := { s.blk with cores := s.blk.cores.map fun k =>
      { k with plain := { k.plain with halfA := k.plain.halfA.map (s.stagedIn k.plain), halfB := k.plain.halfB.map (s.stagedIn k.plain) } } } }

/-- A transfer into fabric memory with no line left has landed: its sender goes on (R188, R232). -/
def State.landFabric (s : State) (x : Transfer) : State :=
  match x.dst with
  | .fabric _ => if x.blocked || s.linesLeft x.id then s else s.xferDone x
  | _ => s

/-- Everything that the lines at hand allow: reads are issued, transfers whose sources have been read are sent, fill-buffer
halves are filled, write lines are issued, and transfers that write no line are done. -/
def State.service (s : State) : State :=
  let s := s.pumpReads
  let due := s.blk.xfers.filter fun x => x.sent.isNone && !s.readsLeft x.id
  let s := ((due.foldl State.sendXfer s).stageArrivals).pumpWrites
  due.foldl (fun s x => match s.xfer? x.id with | some y => s.landFabric y | none => s) s

/-- Start a transfer: it is recorded, its reads are asked for, and what needs none is sent at once. -/
def State.startXfer (s : State) (tenant : Nat) (o : Owner) (d : Loc) (p : Payload) : State :=
  let x : Transfer := ⟨s.blk.nextX, tenant, o, d, p, [], none, [], [], none⟩
  State.service { s with blk := { s.blk with
    xfers := s.blk.xfers ++ [x], nextX := s.blk.nextX + 1
    readQ := s.blk.readQ ++ runsOf x.id o.core? x.readLines } }

/-- Bytes that a transfer writes in one line, at their addresses. -/
def Transfer.lineBytes (x : Transfer) (s : State) (l : Nat) : List (Nat × Byte) :=
  match x.dst with
  | .fabric a => (shift a (x.bytes s)).filter fun b => b.1 / 64 == l
  | _ => []

/-- Lay the bytes of one write line in fabric memory; what another transfer reads of them meanwhile is unordered (R232,
R237). -/
def State.layLine (s : State) (x : Transfer) (l : Nat) : State :=
  let bs := x.lineBytes s l
  let s := s.wrFabric bs
  { s with blk := { s.blk with xfers := s.blk.xfers.map fun y =>
      if y.sent.isNone && y.readLines.contains l then { y with race := y.race ++ bs.map (·.1) } else y } }

/-- The bytes of a write line that has completed stand. -/
def State.lineLaid (s : State) (l : Lines) : State :=
  match s.xfer? l.owner with
  | none => s
  | some x => if x.blocked then s else s.layLine x l.line

/-- The transfer of a write line that has completed lands where it has no line left. -/
def State.lineLanded (s : State) (l : Lines) : State :=
  match s.xfer? l.owner with
  | none => s
  | some x => s.landFabric x

end Sys2Proof.Machine
end

