-- ==== Sys2Proof/Machine/Check.lean ====
section
/-! DEFINITION. The decode check of LOAD_PROGRAM (R12, R84, R110, R129, R137, R151 to R176, R184 to R188, R191 to R193, R195,
R197 to R212, R291, R376): an image, section by section, to the status of its first failure. -/

namespace Sys2Proof.Machine

/-! ### Sizes (R214, R87) -/

def storeSize (col : Bool) : Nat := if col then 0x1800000 else 0x400000
def recStride : Nat := 260 * 1024
/-- The deferred-drain area (R175). -/
def areaBase (col : Bool) : Nat := if col then 0x1600000 else 0x1FD000
def areaSize : Nat := 0x200000

/-- Whether two byte ranges, each a start and a length, share a byte. -/
def overlap (a la b lb : Nat) : Bool := decide (0 < la) && decide (0 < lb) && decide (a < b + lb) && decide (b < a + la)

/-- What a check can find on one instruction, in the order of R186. -/
structure Viol where
  mal : Bool
  np : Bool
  ao : Bool
  rtl : Bool
  deriving DecidableEq, Repr, Inhabited

def Viol.none : Viol := ⟨false, false, false, false⟩

def Viol.or (a b : Viol) : Viol := ⟨a.mal || b.mal, a.np || b.np, a.ao || b.ao, a.rtl || b.rtl⟩

def Viol.status (v : Viol) : Option Status :=
  if v.mal then some .malformed else if v.np then some .notPresent else if v.ao then some .accOvercommit
  else if v.rtl then some .rowTooLong else Option.none

/-- What the check reads beside the image: the configuration, the named core and every core's maps. -/
structure CkCtx where
  cfg : Configuration
  core : Nat
  cores : List Core
  hdr : List Word
  instrs : List TI
  chains : List (List Word)
  fords : List (Word × Word)
  deriving DecidableEq, Repr, Inhabited

namespace CkCtx
variable (x : CkCtx)
def col : Bool := isCol x.core
def self : Core := x.cores.getD x.core .reset
def caps1 : Nat := x.cfg.caps1.toNat
def auto : Bool := bitOf (x.hdr.getD 0 0) 53
def spillBase : Nat := fld (x.hdr.getD 1 0) 63 32
def size : Nat := storeSize x.col
/-- A format whose unit CAPS1 reports absent (R5, R29). -/
def fmtAbsent (c : Nat) : Bool :=
  (((c == 1) || (c == 2)) && !x.caps1.testBit 0) || (c == 6 && !x.caps1.testBit 1)
def noStoch : Bool := !x.caps1.testBit 3
/-- The program contains a ROWAPPLY with g above 1 (R175). -/
def defers : Bool :=
  x.chains.any fun l =>
    let gs := stagesOf l
    gs.any fun g => g.code == cROWAPPLY && gs.any fun r => r.code == cROWSTAT && r.bank == g.bank && decide (1 < r.count)
/-- Logical engines and tags that an OPASS, BDRAIN, SPILL or REFILL names. -/
def named (t : TI) : List (Nat × Nat) :=
  match t.op? with
  | some .opass => t.engines.map fun e => (e, t.tagOf e)
  | some .bdrain => t.engines.map fun e => (e, if t.forEng1 e then t.dTag1 else t.dTag)
  | some .spill | some .refill => [(t.sEng, t.sTag)]
  | _ => []
/-- n_t and n_e of R84. -/
def nT : Nat := (x.instrs.flatMap named).foldl (fun m p => max m (p.2 + 1)) 0
def nE : Nat := (x.instrs.flatMap named).foldl (fun m p => max m (p.1 + 1)) 0
/-- Length of the auto-spill area (R84). -/
def areaLen : Nat := if x.auto then x.nE * x.nT * recStride else 0
def inArea (a n : Nat) : Bool := x.defers && overlap a n (areaBase x.col) areaSize
end CkCtx

/-! ### Section 2: the Ford table (R195) -/

def fordBad (x : CkCtx) (i : Nat) (w : Word × Word) : Bool :=
  let b := fordBase w
  let n := fordSize w
  decide (n < 64) || n % 64 != 0 || b % 64 != 0 || fld w.2 63 18 != 0 || decide (x.size < b + n)
    || (x.fords.take i).any (fun v => overlap b n (fordBase v) (fordSize v))
    || (!x.col && overlap b n sumExt 0x3000) || x.inArea b n
    || (fordGuest w && (x.col || fordReduce w))

/-! ### Section 3: the structure of a chain list (R149 to R152) -/

/-- Fields that a stage uses: rnd, ovf, flush_long, fmt, sel, bank, count, addr, c1, c0 (Table — Stage codes). -/
def stageUses : Nat → List Bool
  | 0x01 => [true, true, true, true, true, true, false, true, false, true]
  | 0x02 | 0x03 => [true, true, true, true, false, false, false, true, false, false]
  | 0x04 => [false, false, true, false, true, false, false, false, false, false]
  | 0x05 => [false, false, true, false, false, false, false, false, true, true]
  | 0x06 => [true, true, true, true, true, true, true, true, false, false]
  | 0x07 => [false, false, false, false, true, true, true, false, false, false]
  | 0x08 => [false, false, false, false, true, true, false, false, false, true]
  | 0x09 => [false, false, false, false, false, true, true, false, false, false]
  | 0x0A | 0x0B => [true, true, false, true, true, false, false, true, false, false]
  | 0x0C => [true, true, true, true, false, false, false, false, false, false]
  | 0x0D => [false, false, false, false, true, false, false, false, false, false]
  | 0x0E => [false, false, false, true, false, false, true, true, false, false]
  | 0x0F | 0x10 => [false, false, false, false, true, false, true, true, true, true]
  | _ => [false, false, false, false, false, false, false, false, false, false]

/-- Values of the fields in the same order. -/
def Stage.fields (g : Stage) : List Nat :=
  [g.rndCode, g.ovf.toNat, g.flush.toNat, g.fmtCode, g.sel, g.bank, g.count, g.addr, g.c1, g.c0]

/-- Whether a sel value is defined by the stage's rule. -/
def selOk (code sel : Nat) : Bool :=
  match code with
  | 0x01 | 0x07 => decide (sel ≤ 3)
  | 0x04 => decide (sel ≤ 5)
  | 0x06 | 0x0D | 0x10 => decide (sel ≤ 1)
  | 0x08 | 0x0F => decide (sel ≤ 2)
  | 0x0A | 0x0B => sel % 4 != 3
  | _ => true

/-- Whether a stage may stand in a list of the target (Table — Stage codes). -/
def placeOk (prologue : Bool) (g : Stage) : Bool :=
  if prologue then
    match g.code with
    | 0x01 => g.sel != 3
    | 0x06 | 0x07 | 0x08 | 0x09 | 0x0A | 0x0B | 0x10 => false
    | _ => true
  else g.code != cDEQUANT

/-- One entry of a list. -/
def stageBad (prologue : Bool) (g : Stage) : Bool :=
  decide (0x10 < g.code) || g.rndCode == 3 || fld g.1 46 44 != 0 || decide (0xC < g.fmtCode)
    || !selOk g.code g.sel || !placeOk prologue g
    || ((stageUses g.code).zip g.fields).any (fun u => !u.1 && u.2 != 0)

/-- Every entry after the first END is entirely zero, the END too (R151). -/
def tailZero : List Word → Bool
  | a :: b :: t => if fld a 63 59 = 0 then (a :: b :: t).all (· == 0) else tailZero t
  | _ => true

/-- The structure of one list. -/
def chainBad (l : List Word) : Bool :=
  let h := l.headD 0
  let pro := chTarget h != 0
  fld h 63 56 != 1 || decide (4 < chTarget h) || fld h 39 0 != 0
    || (if pro then chWide h || decide (0xC < chInFmt h) || decide (0xC < chOutFmt h) || decide (1 < chOutRnd h)
        else fld h 51 40 != 0)
    || (stagesOf l).any (stageBad pro) || !tailZero (l.drop 1)

/-! ### Use of a list at its CHAIN or PCHAIN (R153 to R176) -/

/-- Formats of vectors and residuals (R161). -/
def vecFmt (wide : Bool) (c : Nat) : Bool := [5, 4, 3, 0, 1, 2].contains c || (wide && c == 6)

/-- Formats every value of which is exact in the working format (R155). -/
def exactFmt (wide : Bool) (c : Nat) : Bool := [0, 1, 2, 3, 4, 7, 8, 9].contains c || (wide && [5, 10].contains c)

/-- Stages allowed under wfmt 1 (R154). -/
def wideOk (g : Stage) : Bool :=
  match g.code with
  | 0x01 => decide (g.sel ≤ 2)
  | 0x06 => g.sel == 0
  | 0x02 | 0x03 | 0x05 | 0x0A | 0x0B | 0x0C | 0x0D | 0x0F => true
  | _ => false

def readsVec (g : Stage) : Bool :=
  (g.code == cSCALE && (g.sel == 1 || g.sel == 2)) ||
    [cBIASROW, cBIASCOL, cREDROWS, cREDCOLS, cRESIDUAL].contains g.code

/-- The ROWSTAT that a ROWAPPLY at position p follows, directly or with only POISON_CHECK between (R173 rule 4). -/
def statBefore (gs : List Stage) (p : Nat) : Option Stage :=
  match ((gs.take p).reverse.find? fun g => g.code != cPOISON) with
  | some r =>
    if r.code == cROWSTAT && r.bank == (gs.getD p (0, 0)).bank then some r else none
  | none => none

/-- Whether the formats, rounding codes and units that a list names are absent (R5, R149, R153). -/
def chainAbsent (x : CkCtx) (l : List Word) : Bool :=
  let h := l.headD 0
  (chTarget h != 0 && (x.fmtAbsent (chInFmt h) || x.fmtAbsent (chOutFmt h))) || (chWide h && !x.caps1.testBit 1)
    || (stagesOf l).any fun g =>
      x.fmtAbsent g.fmtCode || ((g.code == cDROPOUT || g.rndCode == 2) && x.noStoch)

/-- Whether a list needs what CAPS1 reports absent: a format, a unit, or the deferred-drain area (R5, R176). -/
def chainNp (x : CkCtx) (l : List Word) : Bool :=
  let gs := stagesOf l
  chainAbsent x l || ((List.range gs.length).zip gs).any fun q => q.2.code == cROWAPPLY && !x.caps1.testBit 5 &&
    ((statBefore gs q.1).map fun r => decide (1 < r.count)).getD false

/-- A list with a stage whose address lies at or beyond the end of the store, selected or not (R214). -/
def chainOutside (x : CkCtx) (l : List Word) : Bool := (stagesOf l).any fun g => decide (x.size ≤ g.addr)

/-- The checks of one stage at position p of a list against its use. A prologue's last CONVERT may name a format exact in
binary32, or binary32 itself, and no other: R33 marks the target role and R155 limits only a CONVERT that is not last (DESIGN
CHOICE, unsafe, log entry 31). -/
def stageUseBad (h : Word) (gs : List Stage) (p : Nat) (g : Stage) : Bool :=
  let pro := chTarget h != 0
  let wide := chWide h
  let last := p + 1 == gs.length
  (g.rndCode == 2 && (pro || g.code != cCONVERT))
    || (wide && !wideOk g)
    || (readsVec g && (!vecFmt wide g.fmtCode || g.addr % ((Fmt.ofCode g.fmtCode).getD .df8).bytes != 0))
    || (g.code == cCONVERT && (g.fmtCode == 11 ||
        (if pro then !(exactFmt false g.fmtCode || (last && g.fmtCode == 5)) else !last && !exactFmt wide g.fmtCode)))
    || (g.code == cCLAMP && ((b32 g.c0).isNan || (b32 g.c1).isNan || (b32 g.c1).lt (b32 g.c0)))
    || (g.code == cDROPOUT && decide (65535 < g.c0))
    || (g.code == cDEQUANT && (p != 0 || g.fmtCode != chInFmt h || !(g.fmtCode == 11 || g.fmtCode == 12)))
    || ((g.code == cROWSTAT || g.code == cONLINE) && (g.count == 0 || decide (128 < g.count)))
    || (g.code == cROWAPPLY &&
        match statBefore gs p with
        | none => true
        | some r => r.sel != (if g.sel == 0 then 3 else 2))

def chainUse (x : CkCtx) (l : List Word) : Viol :=
  let h := l.headD 0
  let gs := stagesOf l
  let ps := (List.range gs.length).zip gs
  let deq := (gs.head?.map fun g => g.code == cDEQUANT).getD false
  { mal := ps.any (fun q => stageUseBad h gs q.1 q.2)
      || (chTarget h != 0 && (chInFmt h == 11 || chInFmt h == 12) && !deq)
      || (gs.isEmpty && chTarget h != 0 && chInFmt h != chOutFmt h)
    np := chainNp x l
    ao := false, rtl := false }

/-! ### Extents of what a list reads and writes (R161, R175) -/

/-- Bytes from its address that a stage touches over i below ni and j below nj; DEQUANT over rows and reduction indices. -/
def stageSpan (g : Stage) (ni nj dr dk : Nat) : Nat :=
  let w := ((Fmt.ofCode g.fmtCode).getD .df8).bytes
  match g.code with
  | 0x01 => if g.sel == 1 then ni * w else if g.sel == 2 then nj * w else 0
  | 0x02 | 0x0B => nj * w
  | 0x03 | 0x0A => ni * w
  | 0x06 => 64 * g.count * (ni - 1) + nj * w
  | 0x0F => if g.sel == 1 then g.count * (ni - 1) + (nj - 1) / 8 + 1 else if g.sel == 2 then 4 * ni else 0
  | 0x10 => if g.sel == 1 then g.count * (ni - 1) + (nj - 1) / 8 + 1 else 0
  | 0x0E => g.count * (dr - 1) + (dk - 1) / 32 + 1
  | _ => 0

/-- A list whose vectors leave the store or lie in a reserved area, at an instruction that latches it; the scale image of a
Plain core's DEQUANT keeps clear of the sum extension too (R104, R161, R175). -/
def spansBad (x : CkCtx) (l : List Word) (ni nj dr dk : Nat) : Bool :=
  decide (0 < ni) && decide (0 < nj) && (stagesOf l).any fun g =>
    let n := stageSpan g ni nj dr dk
    decide (0 < n) && (decide (x.size < g.addr + n) || x.inArea g.addr n ||
      (!x.col && g.code == cDEQUANT && overlap g.addr n sumExt 0x3000))

/-! ### Checker state (R193) -/

/-- A live tag: opening parameters (m_ext, n_ext, wide, kind, sat; none where a REFILL brought a record of another program), the
cycle that it is bound to (pieces, complex, role; none where a pass of no plan opened it) and the next step. -/
structure CkTag where
  par : Option (Nat × Nat × Bool × AccKind × Bool)
  cyc : Option (Nat × Bool × Bool)
  step : Nat
  deriving DecidableEq, Repr, Inhabited

/-- A live Plain row set, with the cycle it is bound to as (pieces, complex); none where a pass of no plan opened it. -/
structure CkRows where
  vecMax : Nat
  int : Bool
  sat : Bool
  cyc : Option (Nat × Bool)
  step : Nat
  kLim : Nat
  nLim : Nat
  share : Bool
  deriving DecidableEq, Repr, Inhabited

/-- A bank's group: its stages as (code, sel, g), tiles counted, g, tile extents, whether it keeps a running maximum, and
whether a group of that kind has completed. -/
structure CkGroup where
  sig : List (Nat × Nat × Nat)
  n : Nat
  g : Nat
  dim : Nat × Nat
  mx : Bool
  done : Bool
  deriving DecidableEq, Repr, Inhabited

/-- Live tags by 16 e + tag, spilled tags likewise, live row sets by row (16 more for row trees), banks, current lists. -/
structure CkState where
  tags : Tab CkTag
  spilled : Tab CkTag
  rows : Tab CkRows
  banks : List CkGroup
  lists : List (Option Nat)
  deriving DecidableEq, Repr, Inhabited

def CkGroup.none : CkGroup := ⟨[], 0, 1, (0, 0), false, false⟩

def CkState.start : CkState := ⟨[], [], [], [.none, .none], listsEmpty⟩

/-- Progress of a bank's group, as a loop-back compares it: nothing while no group is open. -/
def CkGroup.progress (b : CkGroup) : CkGroup := if b.n = 0 then .none else { b with mx := false, done := false }

/-- Row sets without the limits of their last pass. -/
def ckRowShape (t : Tab CkRows) : List (Nat × CkRows) := t.map fun r => (r.1, { r.2 with kLim := 0, nLim := 0 })

/-- Whether two states agree in what a loop-back compares (R193). -/
def CkState.same (a b : CkState) : Bool :=
  decide (a.tags = b.tags) && decide (ckRowShape a.rows = ckRowShape b.rows) &&
    decide (a.banks.map CkGroup.progress = b.banks.map CkGroup.progress) && decide (a.lists = b.lists)

/-- What the check of one instruction gives. -/
abbrev CkRes := Viol × CkState

def tabFind {α : Type} (t : Tab α) (k : Nat) : Option α := (t.find? (·.1 == k)).map (·.2)

def CkCtx.list (x : CkCtx) (st : CkState) (target : Nat) : List Word :=
  match st.lists.getD target none with
  | some i => x.chains.getD i []
  | none => []

/-! ### Word 0 and reserved fields (R12, R187) -/

/-- Bits hi to lo as a mask. -/
def bits (hi lo : Nat) : Nat := (2 ^ (hi - lo + 1) - 1) <<< lo

/-- Bits that an opcode's tables name, words 0 to 3. -/
def usedBits : Op → Nat × Nat × Nat × Nat
  | .opass => (bits 15 5, bits 63 43 + bits 31 0, bits 63 10, bits 63 7)
  | .dpass | .tpass => (bits 15 3, bits 63 27 + bits 15 0, bits 63 21, 0)
  | .pfill => (bits 15 13 + bits 10 0, bits 47 0, 0, 0)
  | .bdrain => (bits 15 1, bits 63 54 + bits 47 0, bits 63 13, bits 63 62 + bits 47 0)
  | .spill | .refill => (bits 15 11, bits 31 0, 0, 0)
  | .xfer => (bits 15 8, bits 63 0, bits 63 0, bits 63 20)
  | .arm => (bits 15 9, bits 15 0, 0, 0)
  | .chain => (bits 15 9, 0, 0, 0)
  | .pchain => (bits 15 6, 0, 0, 0)
  | .mark => (bits 15 11, 0, 0, 0)
  | .await | .sync | .fin => (0, 0, 0, 0)

def rsvdBad (t : TI) (o : Op) : Bool :=
  let u := usedBits o
  let out := fun (w : Word) (m : Nat) => w.toNat &&& m != w.toNat
  out t.w0 (bits 63 16 + u.1) || out t.w1 u.2.1 || out t.w2 u.2.2.1 || out t.w3 u.2.2.2

/-- Loop-backs as (target, index, level), in program order. -/
def CkCtx.loops (x : CkCtx) : List (Nat × Nat × Nat) :=
  ((List.range x.instrs.length).zip x.instrs).filterMap fun p =>
    if p.2.loopOp = 1 then some (p.2.loopTarget, p.1, p.2.loopLvl) else none

/-- Whether the loop-back at index i nests with every earlier one and shares no level with one it encloses (R192). -/
def loopBad (ls : List (Nat × Nat × Nat)) (i : Nat) : Bool :=
  match ls.find? (·.2.1 == i) with
  | none => false
  | some me => ls.any fun a =>
      decide (a.2.1 < i) && decide (me.1 ≤ a.2.1) && (decide (a.1 < me.1) || a.2.2 == me.2.2)

def kindOk (col : Bool) : Op → Bool
  | .opass | .spill | .refill => col
  | .dpass | .tpass | .pfill => !col
  | _ => true

/-- The checks common to every instruction at index i (R185, R187, R188, R192). -/
def commonBad (x : CkCtx) (i : Nat) (t : TI) : Bool :=
  match t.op? with
  | none => true
  | some o =>
    rsvdBad t o || !kindOk x.col o || decide (o = .fin) != (i + 1 == x.instrs.length)
      || (if t.waitEn then decide (x.fords.length ≤ t.waitFord) else t.waitFord != 0 || t.consume)
      || (match t.loopOp with
          | 0 => t.loopLvl != 0 || t.loopTarget != 0 || t.loopRep != 0
          | 1 => decide (i < t.loopTarget) || loopBad x.loops i
          | _ => true)

/-! ### Operands of transfers (R198, R214, R291) -/

/-- A place of kind `kind` at `a` over `n` bytes: malformed, and not present. -/
def placeViol (x : CkCtx) (kind a n : Nat) : Viol :=
  match kind with
  | 0 => { Viol.none with mal := aliasBad a }
  | 1 => { Viol.none with mal := decide (2 ^ 32 ≤ a) || decide (x.size ≤ a) || decide (x.size < a + n) }
  | 2 => { Viol.none with
            mal := decide (2 ^ 45 ≤ a) || a / 2 ^ 38 % 4 != 0
            np := decide (x.cfg.nCores ≤ a / 2 ^ 40 % 32) }
  | _ => { Viol.none with mal := true }

/-- The auto-spill area, judged where a tag is named (R84 rule 2, R175). -/
def areaViol (x : CkCtx) : Viol :=
  { Viol.none with
    mal := x.auto && x.inArea x.spillBase x.areaLen
    ao := x.auto && (decide (x.size < x.spillBase + x.areaLen)
      || x.fords.any fun w => overlap x.spillBase x.areaLen (fordBase w) (fordSize w)) }

/-! ### OPASS (R33, R34, R67, R68, R81, R84, R125, R129, R137, R199) -/

def narrowFloat (c : Nat) : Bool := decide (c ≤ 3)
def narrowInt (c : Nat) : Bool := c == 7 || c == 8

/-- Whether two format codes may pair in a Col pass (R33, R34). -/
def colPair (a b : Nat) : Bool :=
  (narrowFloat a && narrowFloat b) || (narrowInt a && narrowInt b) || (a == b && [4, 5, 6, 9].contains a)

/-- An image at `a` for `ext` rows or columns (R199): outside the store or in a reserved area; and in the spill area. -/
def imageViol (x : CkCtx) (list : List Word) (wide cplx : Bool) (f : Fmt) (sk : Nat → Nat) (a ext k : Nat) : Viol :=
  let n := (k + maxSkew wide sk ext) * linePitch wide cplx (imageFmt list f)
  { Viol.none with
    mal := decide (x.size ≤ a) || decide (x.size < a + n) || x.inArea a n
    ao := x.auto && overlap a n x.spillBase x.areaLen }

/-- A prologue list against the pass that latches it (R151, R157). -/
def listFmtBad (list : List Word) (fmt : Nat) : Bool := !list.isEmpty && chOutFmt (list.headD 0) != fmt

/-- Operand formats that a plan serves on either side (R125). -/
def planFmt (f : Fmt) : Bool := [Fmt.b16, .b32, .b64, .int16].contains f

/-- The tag's part of an OPASS for logical engine e. A tag that a pass of no plan has opened is bound to no cycle: passes of any
plan, and complex ones, may continue it in any order (DESIGN CHOICE, unsafe, log entry 31). -/
def opassTag (x : CkCtx) (t : TI) (e : Nat) (r : CkRes) : CkRes :=
  let key := 16 * e + t.tagOf e
  let par := some (t.mExt, t.nExtOf e, t.wide, t.colKind, !t.ovf)
  let role := if t.oCplx then xor t.cpartA (t.cpartBOf e) else false
  let cyc := if planFmt t.fA || t.oCplx then some (colPieces t.fA, t.oCplx, role) else none
  let step := t.colCycleStep
  let next := (step + 1) % t.colCycle
  let old := tabFind r.2.tags key
  let bad :=
    match t.oAdd, old with
    | false, some _ => true
    | false, none => step != 0
    | true, none => true
    | true, some g => (g.par.isSome && decide (g.par ≠ par)) || (g.cyc.isSome && (decide (g.cyc ≠ cyc) || g.step != step))
  let free := (old.map fun g => g.par.isSome && g.cyc.isNone).getD cyc.isNone
  let tags := Tab.insert r.2.tags key (if free then ⟨par, none, 0⟩ else ⟨par, cyc, next⟩)
  (r.1.or { Viol.none with
      mal := bad
      ao := (!x.auto && decide (1 < t.tagOf e)) || (!x.auto && x.self.rep.fenced.toNat % 4 != 0 && decide (2 < tags.length)) },
    { r.2 with tags := tags })

def ckOpass (x : CkCtx) (t : TI) (st : CkState) : CkRes :=
  let w := t.wide
  let lim := if w then 128 else 256
  let es := t.engines
  let k := x.self
  let shape := t.engSel == 3 || !colPair t.fmtA t.fmtB
    || (t.engSel != 2 && (t.oTag1 != 0 || t.cpartA1 || t.cpartB1 || t.cneg1 || t.nExt1 != 0 || t.oNLim1 != 0 || t.b1Addr != 0))
    || t.mExt == 0 || decide (lim < t.mExt) || decide (t.mExt < t.oMLim) || decide (t.kExt < t.oKLim)
    || es.any (fun e => t.nExtOf e == 0 || decide (lim < t.nExtOf e) || decide (t.nExtOf e < t.nLimOf e))
    || decide (colPieces t.fA ≤ t.pieceA) || decide (colPieces t.fA ≤ t.pieceB)
    || (if t.oCplx then t.engSel == 2 && t.cpartA != t.cpartA1
        else t.cpartA || t.cpartB || t.cneg || t.cpartA1 || t.cpartB1 || t.cneg1)
  let rl := x.list st 1
  let cl := fun e => x.list st (2 + e)
  let lists := listFmtBad rl t.fmtA || spansBad x rl t.mExt t.kExt t.mExt t.kExt
    || es.any (fun e => listFmtBad (cl e) t.fmtB || spansBad x (cl e) t.kExt (t.nExtOf e) (t.nExtOf e) t.kExt)
  let v := es.foldl (fun v e => v.or (imageViol x (cl e) w t.oCplx t.fB (k.skewCol e) (t.bAddrOf e) (t.nExtOf e) t.kExt))
    (imageViol x rl w t.oCplx t.fA k.skewRow t.aAddr t.mExt t.kExt)
  let v := (v.or (areaViol x)).or
    { Viol.none with mal := shape || lists
                     np := x.fmtAbsent t.fmtA || x.fmtAbsent t.fmtB || (t.oCplx && !x.caps1.testBit 2) }
  es.foldl (fun r e => opassTag x t e r) (v, st)

/-! ### DPASS and TPASS (R33, R34, R97, R99, R102, R103, R110, R114, R126, R129, R138, R200, R211) -/

def plainPair (a w : Nat) : Bool :=
  (narrowFloat a && (narrowFloat w || w == 11)) || (narrowInt a && narrowInt w) || (a == w && [4, 5, 9].contains a)

/-- A page identifier of its class (R97, R126). -/
def pageOk (cls p : Nat) : Bool :=
  match cls with
  | 0 => decide (p ≤ 2047)
  | 1 => decide (p ≤ 1023)
  | 2 => p % 2 == 0 && decide (p ≤ 1022)
  | 3 => p % 4 == 0 && decide (p ≤ 1020)
  | _ => false

/-- A row set's key. -/
def rowsKey (tree : Bool) (row : Nat) : Nat := (if tree then 16 else 0) + row

/-- The limits of a reduced Plain core: a live TPASS row set occupies rows 0 to 7 of the fenced engine (R211). -/
def reducedBad (x : CkCtx) (tree : Bool) (row vecMax : Nat) (rows : Tab CkRows) : Bool :=
  x.self.rep.fenced != 0 &&
    (if tree then decide (4 < vecMax) || (decide (0 < vecMax) && rows.any fun r =>
        (decide (r.1 < 8) || (decide (16 ≤ r.1) && decide (r.1 ≠ rowsKey true row))) && decide (0 < r.2.vecMax))
     else decide (12 < row + rowsOf vecMax) ||
       (decide (row < 8) && decide (0 < vecMax) && rows.any (fun r => decide (16 ≤ r.1) && decide (0 < r.2.vecMax))))

/-- The bytes of one vector that a pass can read, at most, from the vector's start (R102, R136). -/
def vecSpanBad (x : CkCtx) (t : TI) (list : List Word) (base nt : Nat) : Bool :=
  let f := imageFmt list t.fAct
  let m := if t.pCplx then 2 else 1
  let lo := t.kBase * m * posBits f / 8
  let hi := ((t.kBase + nt) * m * posBits f + 7) / 8
  (List.range t.vecMax).any fun i =>
    let a := vecAddr base t.vecPitch i
    decide (x.size < a + hi) || overlap (a + lo) (hi - lo) sumExt 0x3000 || x.inArea (a + lo) (hi - lo)

/-- The decode check of a DPASS or TPASS. Of passes of one cycle that name different pages, against R126, it makes nothing: R126 gives
no status for them, and each reads the page that it names (DESIGN CHOICE, unsafe, log entry 31). -/
def ckPlain (x : CkCtx) (t : TI) (tree : Bool) (st : CkState) : CkRes :=
  let p := plainPieces t.fW
  let nt := if tree then t.pNLim else t.pKLim
  let list := x.list st 4
  let base := ((x.fords[t.waitFord]?).map fordBase).getD 0
  let guestBad :=
    if t.share then tree || !((x.fords[t.guestFord]?).map fordGuest).getD false else t.guestFord != 0
  let mal := !t.waitEn || !plainPair t.fmtAct t.fmtW || decide (plainPieces t.fAct ≤ t.pieceW)
    || decide (64 < t.vecMax) || decide (512 < t.pKLim) || decide (64 < t.pNLim)
    || decide (64 < rowsOf t.vecMax * t.parts) || decide (16 < t.pRow + rowsOf t.vecMax)
    || !pageOk (classOf t.fW) t.page
    || (if t.fmtW == 11 then decide (x.size < t.scaleAddr + 1024) || overlap t.scaleAddr 1024 sumExt 0x3000
          || x.inArea t.scaleAddr 1024 else t.scaleAddr != 0)
    || guestBad || (tree && (t.pCplx || decide (16 < 4 * t.pRow + t.vecMax))) || (t.pCplx && t.pNLim % 2 != 0)
    || listFmtBad list t.fmtAct || spansBad x list t.vecMax nt t.vecMax (t.kBase + nt)
    || (decide (0 < nt) && vecSpanBad x t list base nt)
  let key := rowsKey tree t.pRow
  let old := tabFind st.rows key
  let live := st.rows.any fun r =>
    decide (decide (16 ≤ r.1) = tree) && overlap (r.1 % 16) (rowsOf r.2.vecMax) t.pRow (rowsOf t.vecMax)
  let cyc := if planFmt t.fW || t.pCplx then some (p, t.pCplx) else none
  let bad :=
    match t.pAdd, old with
    | false, some _ => true
    | false, none => live || t.plainStep != 0
    | true, none => true
    | true, some r => r.vecMax != t.vecMax || r.int != t.plainInt || r.sat == t.ovf
        || (r.cyc.isSome && (decide (r.cyc ≠ cyc) || r.step != t.plainStep))
  let bound := ((old.filter fun _ => t.pAdd).map (·.cyc)).getD cyc
  let share := t.share || ((old.map (·.share)).getD false && t.pAdd)
  (⟨mal || bad,
     x.fmtAbsent t.fmtAct || x.fmtAbsent t.fmtW || (tree && !x.caps1.testBit 4) || (t.pCplx && !x.caps1.testBit 2),
    reducedBad x tree t.pRow t.vecMax st.rows, false⟩,
   { st with rows := Tab.insert st.rows key
                      ⟨t.vecMax, t.plainInt, !t.ovf, bound, if bound.isSome then (t.plainStep + 1) % p else 0, t.pKLim, t.pNLim, share⟩ })

/-! ### BDRAIN (R155, R161, R173, R176, R198, R202, R203) -/

/-- What one tile's crossing finds, and the bank after it: the stages of the bank in list order. The first statistic counts the
tile; SCALE with sel 011 and RESIDUAL_ADD with sel 001 are judged by the bank at their own position (R173 rules 1, 2, 6, 7). -/
def groupTile (mine : List Stage) (sig : List (Nat × Nat × Nat)) (g : Nat) (d : Nat × Nat) (bk : CkGroup) : Bool × CkGroup :=
  let r := mine.foldl (fun (acc : Bool × Bool × CkGroup) s =>
    let bk := acc.2.2
    if s.code == cROWSTAT || s.code == cONLINE then
      let mx := s.code == cONLINE || s.sel == 3
      if acc.2.1 then (acc.1, true, { bk with mx := mx })
      else
        let bad := bk.n != 0 && (decide (bk.sig ≠ sig) || (decide (bk.dim ≠ d) && bk.dim != (0, 0) && d != (0, 0)))
        let n := bk.n + 1
        let gg := if bk.n = 0 then g else bk.g
        (acc.1 || bad, true, { sig := sig, n := if gg ≤ n then 0 else n, g := gg, dim := d, mx := mx, done := decide (gg ≤ n) })
    else if s.code == cSCALE then (acc.1 || !(bk.mx && bk.done && bk.n == 0), acc.2.1, bk)
    else if s.code == cRESIDUAL then (acc.1 || !(bk.mx && (bk.n != 0 || bk.done)), acc.2.1, bk)
    else acc) (false, false, bk)
  (r.1, r.2.2)

/-- One bank's group rules at a drain of tiles of the extents `dims`, tile by tile (R173, R176). -/
def groupStep (gs : List Stage) (b : Nat) (dims : List (Nat × Nat)) (bk : CkGroup) : Viol × CkGroup :=
  let mine := gs.filter fun g => g.bank == b &&
    ([cROWSTAT, cROWAPPLY, cONLINE].contains g.code || (g.code == cSCALE && g.sel == 3) || (g.code == cRESIDUAL && g.sel == 1))
  let stat := mine.filter fun g => g.code == cROWSTAT || g.code == cONLINE
  let sig := (mine.filter fun g => [cROWSTAT, cROWAPPLY, cONLINE].contains g.code).map fun g => (g.code, g.sel, g.count)
  let g := stat.foldl (fun m s => max m s.count) 1
  let r := dims.foldl (fun (acc : Bool × CkGroup) d =>
    let t := groupTile mine sig g d acc.2
    (acc.1 || t.1, t.2)) (false, bk)
  let twice := decide (1 < stat.length) && decide (1 < g)
  let orphan := stat.isEmpty && mine.any fun s => s.code == cROWAPPLY
  let d := dims.headD (0, 0)
  ({ Viol.none with
      mal := r.1 || twice || orphan
      rtl := mine.any (fun s => s.code == cROWAPPLY) && decide (1 < g) && decide (2097152 < 4 * g * d.1 * d.2) }, r.2)

/-- Bytes of a drain's destination range (R203): `m` rows and `cols` destination columns written, `mTot` rows in all. -/
def drainSpan (f : Fmt) (pitch mTot m cols : Nat) : Nat :=
  if m = 0 ∨ cols = 0 then 0
  else if f = .dx16 then max ((m - 1) * pitch + 2 * cols) (pitch * mTot + 16 * (m - 1) + (cols + 31) / 32)
  else (m - 1) * pitch + cols * f.bytes

/-- The rules of BDRAIN (R202). R202 states zero on Plain for eng_sel, m_lim and n_lim alone; the model makes MALFORMED too what
an image of the one kind writes in a field that R202 describes for the other: acc_tag, acc_tag1 and n_lim1 on Plain, acc_row and
tree on Col (DESIGN CHOICE, unsafe, log entry 31). -/
def ckBdrain (x : CkCtx) (t : TI) (st : CkState) : CkRes :=
  let f := (Fmt.ofCode t.outFmt).getD .b32
  let list := x.list st 0
  let gs := stagesOf list
  let named := CkCtx.named t
  let tags := named.map fun p => tabFind st.tags (16 * p.1 + p.2)
  let rows := tabFind st.rows (rowsKey t.dTree t.dRow)
  let dims : Option (List (Nat × Nat)) :=
    if x.col then
      if tags.all (fun g => ((g.bind (·.par)).isSome)) then
        some (tags.map fun g => match g.bind (·.par) with | some p => (p.1, p.2.1) | none => (0, 0))
      else none
    else rows.map fun r => [(r.vecMax, rowWidth t.dTree)]
  let ds := dims.getD (named.map fun _ => (0, 0))
  let mTot := (ds.headD (0, 0)).1
  let off := (ds.headD (0, 0)).2
  let written :=
    if x.col then
      (min t.dMLim mTot, if t.engSel = 2 ∧ 0 < t.dNLim1 then off + min t.dNLim1 (ds.getD 1 (0, 0)).2 else min t.dNLim off)
    else (mTot, match rows with | some r => if t.dTree then r.kLim else r.nLim | none => 0)
  let shape := t.outFmt == 11 || decide (12 < t.outFmt) || t.dRnd == 3 || t.stAddr % 8 != 0 || decide (1 < t.stKind)
    || (if x.col then t.engSel == 3 || t.dRow != 0 || t.dTree || (t.engSel != 2 && (t.dTag1 != 0 || t.dNLim1 != 0))
        else t.engSel != 0 || t.dTag != 0 || t.dTag1 != 0 || t.dMLim != 0 || t.dNLim != 0 || t.dNLim1 != 0)
  let live :=
    if x.col then tags.any fun g => match g with | none => true | some g => g.cyc.isSome && g.step != 0
    else match rows with | none => true | some r => r.step != 0
  let final := (gs.getLast?.map fun g => g.code == cCONVERT && g.fmtCode != t.outFmt).getD false
  let stoch := gs.any fun g => g.code == cDROPOUT || g.rndCode == 2
  let shared := !x.col && ((rows.map (·.share)).getD false) && (t.dRnd == 2 || stoch)
  let nj := ds.foldl (fun m d => max m d.2) 0
  let resid := gs.any fun g => g.code == cRESIDUAL && dims.isSome && decide (64 * g.count < nj * g.fmt.bytes)
  let g0 := groupStep gs 0 ds (st.banks.getD 0 .none)
  let g1 := groupStep gs 1 ds (st.banks.getD 1 .none)
  let v := ((placeViol x t.stKind t.stAddr 8).or (placeViol x t.dKind t.dDst (drainSpan f t.dPitch mTot written.1 written.2)))
  let v := ((v.or g0.1).or g1.1).or (if x.col then areaViol x else .none)
  (v.or { Viol.none with
      mal := shape || live || final || shared || resid || ds.any fun d => spansBad x list d.1 d.2 0 0
      np := x.fmtAbsent t.outFmt || (t.dRnd == 2 && x.noStoch)
      ao := x.col && !x.auto && named.any fun p => decide (1 < p.2) },
   { st with
      tags := if x.col then named.foldl (fun tb p => Tab.erase tb (16 * p.1 + p.2)) st.tags else st.tags
      rows := if x.col then st.rows else Tab.erase st.rows (rowsKey t.dTree t.dRow)
      banks := [g0.2, g1.2] })

/-! ### The rest (R84, R204 to R206, R219, R376) -/

def ckSpill (x : CkCtx) (t : TI) (refill : Bool) (st : CkState) : CkRes :=
  let key := 16 * t.sEng + t.sTag
  let old := tabFind st.tags key
  let v : Viol :=
    { mal := x.auto || t.recOff % 64 != 0 || decide (x.size < t.recOff + recBytes) || x.inArea t.recOff recBytes
        || (if refill then old.isSome else old.isNone)
      np := false
      ao := decide (1 < t.sTag) || (refill && x.self.rep.fenced.toNat % 4 != 0 && decide (1 < st.tags.length))
      rtl := false }
  if refill then
    (v, { st with tags := Tab.insert st.tags key ((tabFind st.spilled key).getD ⟨none, none, 0⟩) })
  else
    (v, { st with tags := Tab.erase st.tags key
                  spilled := match old with | some g => Tab.insert st.spilled key g | none => st.spilled })

/-- An operand format of the mode of a skewed image (R66, R219). -/
def skewFmtOk (wide : Bool) (c : Nat) : Bool :=
  if wide then [4, 6, 9].contains c else narrowFloat c || narrowInt c || c == 5

/-- XFER. A skewed image is bounded under the skews of the receiving core, in the Ford that the image's own table, or the table
that another core holds when the check runs, gives; where that core holds no such Ford, in its store (R219; DESIGN CHOICE, log
entry 32). -/
def ckXfer (x : CkCtx) (t : TI) (st : CkState) : CkRes :=
  let empty := t.rows == 0 || t.rowBytes == 0
  let pay : Payload := .copy (.fabric 0) t.xSrcPitch t.rows t.rowBytes t.xDstPitch t.skew t.skewEng t.skewWide t.skewFmt
  let dcore := if t.xDstKind = 2 then t.xDst / 2 ^ 40 % 32 else x.core
  let rk := x.cores.getD dcore .reset
  let f := (Fmt.ofCode t.skewFmt).getD .df8
  let lim := lineElems t.skewWide
  let l := lim * f.bytes
  let c := skewParts t.skewWide f t.xDstPitch
  let ext := copyExtent rk pay
  let size := match (if dcore = x.core then x.fords else rk.img.fords)[t.xDst / 2 ^ 32 % 64]? with
    | some w => fordSize w
    | none => if dcore = x.core then 0 else storeSize (isCol dcore)
  let fordOut := t.xDstKind == 2 && !empty && decide (size < t.xDst % 2 ^ 32 + ext)
  let skewBad :=
    if t.skew = 0 then t.skewFmt != 0
    else t.skew == 3 || t.xDstKind == 0 || !isCol dcore || !skewFmtOk t.skewWide t.skewFmt
      || (t.xDstPitch != l && t.xDstPitch != 2 * l) || t.rowBytes % (f.bytes * c) != 0 || fordOut
      || (!empty && (if t.skew = 1 then decide (lim < t.rows) else decide (lim < t.rowBytes / (f.bytes * c))))
  let v := (placeViol x t.xSrcKind t.xSrc (if empty then 0 else (t.rows - 1) * t.xSrcPitch + t.rowBytes)).or
    (placeViol x t.xDstKind t.xDst ext)
  (v.or { Viol.none with mal := skewBad || decide (1 < t.xSrcKind), np := decide (t.skew ≠ 0) && x.fmtAbsent t.skewFmt }, st)

def ckChain (x : CkCtx) (t : TI) (pro : Bool) (st : CkState) : CkRes :=
  let ok := fun tg => if x.col then decide (1 ≤ tg) && decide (tg ≤ 3) else tg == 4
  if t.listEmpty then
    let tg := if pro then t.pTarget else 0
    ({ Viol.none with mal := t.listIdx != 0 || (pro && !ok tg) }, { st with lists := st.lists.set tg none })
  else
    let l := x.chains.getD t.listIdx []
    let tg := chTarget (l.headD 0)
    ((chainUse x l).or { Viol.none with
        mal := decide (x.chains.length ≤ t.listIdx) || (pro && t.pTarget != 0) || (if pro then !ok tg else tg != 0) },
      { st with lists := st.lists.set tg (some t.listIdx) })

/-- One instruction's own checks. -/
def ckInstr (x : CkCtx) (t : TI) (st : CkState) : CkRes :=
  match t.op? with
  | some .opass => ckOpass x t st
  | some .dpass => ckPlain x t false st
  | some .tpass => ckPlain x t true st
  | some .pfill =>
    ({ Viol.none with mal := !pageOk t.fCls t.fPage || t.fSrc % 64 != 0 || aliasBad t.fSrc }, st)
  | some .bdrain => ckBdrain x t st
  | some .spill => ckSpill x t false st
  | some .refill => ckSpill x t true st
  | some .xfer => ckXfer x t st
  | some .arm => ({ Viol.none with mal := decide (x.fords.length ≤ t.armFord) }, st)
  | some .chain => ckChain x t false st
  | some .pchain => ckChain x t true st
  | _ => (.none, st)

/-- The instructions in program order, loops followed once: the entry state of every index is kept for its loop-backs
(R186 step 4, R193). The result is the status and index of the first failure, or the state at END. -/
def ckAll (x : CkCtx) : List TI → Nat → CkState → List CkState → Except (Status × Nat) CkState
  | [], _, st, _ => .ok st
  | t :: ts, i, st, entries =>
    let entries := entries ++ [st]
    let r := ckInstr x t st
    let loop := t.loopOp == 1 && !(entries.getD t.loopTarget .start).same r.2
    match (r.1.or { Viol.none with mal := commonBad x i t || loop }).status with
    | some s => .error (s, i)
    | none => ckAll x ts (i + 1) r.2 entries

/-! ### The whole image (R184 to R186) -/

def imgInstrs (h : List Word) : Nat := fld (h.getD 0 0) 47 32
def imgChains (h : List Word) : Nat := fld (h.getD 0 0) 31 24
def imgFords (h : List Word) : Nat := fld (h.getD 0 0) 23 16
def imgBytes (h : List Word) : Nat := fld (h.getD 3 0) 63 32

/-- The header, the kind and the length (R184 to R186 step 1), without the CRC. -/
def headerBad (col : Bool) (h : List Word) : Bool :=
  let w0 := h.getD 0 0
  let w1 := h.getD 1 0
  fld w0 63 56 != 1 || fld w0 55 54 != (if col then 0 else 1) || (bitOf w0 53 && !col) || fld w0 52 48 != 0
    || fld w0 15 0 != 0 || imgInstrs h == 0 || decide (2048 < imgInstrs h) || decide (64 < imgChains h)
    || decide (64 < imgFords h) || fld w1 31 0 != 0 || fld w1 63 32 % 64 != 0 || (!bitOf w0 53 && fld w1 63 32 != 0)
    || fld (h.getD 2 0) 31 0 != 0 || (h.drop 4).any (· != 0)
    || imgBytes h != 64 + 32 * imgInstrs h + 136 * imgChains h + 16 * imgFords h

def groupInstrs : List Word → List TI
  | a :: b :: c :: d :: t => ⟨a, b, c, d⟩ :: groupInstrs t
  | _ => []

def groupChains : Nat → List Word → List (List Word)
  | 0, _ => []
  | n + 1, l => l.take 17 :: groupChains n (l.drop 17)

def groupFords : List Word → List (Word × Word)
  | a :: b :: t => (a, b) :: groupFords t
  | _ => []

/-- The image that a header and its body spell (R185). -/
def imageOf (h body : List Word) (addr : Option Nat) : Image :=
  let ni := 4 * imgInstrs h
  let nc := 17 * imgChains h
  { hdr := h.take 3
    instrs := groupInstrs (body.take ni)
    chains := groupChains (imgChains h) ((body.drop ni).take nc)
    fords := groupFords ((body.drop (ni + nc)).take (2 * imgFords h))
    addr := addr }

/-- A failed image check: its status, and section and index as dkind 0x2 of R243 gives them. -/
structure ImgFail where
  status : Status
  section_ : Nat
  index : Nat
  deriving DecidableEq, Repr, Inhabited

/-- The index of the first element that a predicate refuses. -/
def firstBad {α : Type} (p : Nat → α → Bool) (l : List α) : Option Nat :=
  (((List.range l.length).zip l).find? fun e => p e.1 e.2).map (·.1)

/-- Steps 2 to 5 of R186 under the maps in force: none where the image passes. R186 gives no place to NOT_PRESENT for a list that
no CHAIN or PCHAIN selects (R5): it follows the structure of the lists and precedes the instructions, as section 2 with the
list's index; and a stage address beyond the store belongs to section 2 (DESIGN CHOICE, unsafe, log entry 31). -/
def checkImage (cfg : Configuration) (core : Nat) (cores : List Core) (im : Image) : Option ImgFail :=
  let x : CkCtx := ⟨cfg, core, cores, im.hdr, im.instrs, im.chains, im.fords⟩
  let picked := fun c => im.instrs.any fun t =>
    (decide (t.op? = some .chain) || decide (t.op? = some .pchain)) && !t.listEmpty && t.listIdx == c
  match firstBad (fordBad x) im.fords with
  | some i => some ⟨.malformed, 1, i⟩
  | none =>
    match firstBad (fun _ l => chainBad l || chainOutside x l) im.chains with
    | some i => some ⟨.malformed, 2, i⟩
    | none =>
      match firstBad (fun i l => !picked i && chainNp x l) im.chains with
      | some i => some ⟨.notPresent, 2, i⟩
      | none =>
        match ckAll x im.instrs 0 .start [] with
        | .error e => some ⟨e.1, 3, e.2⟩
        | .ok st =>
          if !st.tags.isEmpty || !st.rows.isEmpty || st.banks.any (·.n != 0) then
            some ⟨.malformed, 3, im.instrs.length - 1⟩
          else none

/-- The whole check of a LOAD_PROGRAM on an image in fabric memory (R186): the image, or the failure. -/
def loadCheck (cfg : Configuration) (core : Nat) (cores : List Core) (m : Mem) (addr : Nat) : Except ImgFail Image :=
  let h := m.words addr 8
  if headerBad (isCol core) h then .error ⟨.malformed, 0, 0⟩
  else
    let n := (imgBytes h - 64) / 8
    let body := m.words (addr + 64) n
    if crc32 (body.flatMap bytesOfWord) != fld (h.getD 3 0) 31 0 then .error ⟨.malformed, 0, 0⟩
    else
      let im := imageOf h body (some addr)
      match checkImage cfg core cores im with
      | some e => .error e
      | none => .ok im

end Sys2Proof.Machine
end

