-- ==== Sys2Proof/Machine/Registers.lean ====
section
/-! DEFINITION. The host-port windows and the global registers: reads, writes, submission of packets, interrupts and host-port
resets (R93, R213, R238 to R245, R263, R285, R309 to R329, R344 to R347, R352 to R354, R360, R361, R364, R365, R369). -/

namespace Sys2Proof.Machine

open Host

/-! ### Values of registers -/

namespace Phase
def code : Phase → Nat
  | .reset => 0 | .fuseRead => 1 | .init => 2 | .ready => 2 | .opened => 3 | .sealed => 4 | .scanLock => 5
end Phase

namespace Role
def code : Role → Nat
  | .off => 0 | .follower => 1 | .claiming => 2 | .lead => 3
end Role

/-- Coding of PWR_DOM0 and PWR_DOM1 (R317). -/
def Dom.code : Dom → Nat
  | .still .off => 0 | .still .retain => 1 | .still .on => 2 | .changing _ _ => 3

def RunState.code : RunState → Nat
  | .empty => 0 | .loaded => 1 | .running => 2 | .saved => 3

/-- CORE_RUN_STATUS (R213). -/
def RunSt.word (r : RunSt) : Word :=
  Machine.word (put 63 56 r.status.toNat + put 55 45 r.pc + put 44 34 r.failIdx + put 33 32 r.state.code + r.runs.toNat)

/-- The mode of CORE_ENG_MAP (R213). -/
def Repair.mode (r : Repair) : Nat := if r.coreFenced then 2 else if r.fenced = 0 then 0 else 1

/-- CORE_ENG_MAP (R213). -/
def Repair.engMap (r : Repair) : Word :=
  Machine.word (put 15 8 r.mapEpoch.toNat + put 5 4 r.mode + put 3 0 r.fenced.toNat)

/-- CORE_FORD (R213). -/
def FordSt.word (f : FordSt) : Word :=
  Machine.word (put 63 63 (decide (f.target ≠ 0)).toNat + put 62 62 f.fired.toNat + put 47 24 f.count.toNat
    + put 15 0 f.target.toNat)

/-- CORE_PHASE (R213). -/
def PhaseT.word (p : PhaseT) : Word := Machine.word (put 63 56 p.marks.toNat + put 55 0 p.time.toNat)

/-- CP_STICKY_EXC (R145). -/
def Tenant.stickyExc (x : Tenant) : Word := Machine.word (put 47 32 x.invDrains.toNat + put 3 0 x.flags.toNat)

/-- MARGIN_STATUS (R329). -/
def State.marginWord (s : State) : Word :=
  let m := s.blk.margin
  word (put 63 48 m.surveys.toNat + put 47 40 m.worst.toNat + put 39 34 m.worstDom.toNat + put 33 30 m.worstGrp.toNat
    + put 29 29 m.running.toNat + put 28 28 m.fail.toNat + put 27 27 m.warn.toNat + put 26 20 s.aon.power.floor.toNat
    + put 19 12 m.retaps.toNat + put 11 8 m.fences.toNat)

/-- SEAL_STATE (R263). -/
def State.sealWord (s : State) : Word :=
  word (put 63 32 s.aon.policyCrc.toNat + put 16 16 s.aon.leadHalf.toNat + s.aon.sealed.toNat)

/-- AON_LEAD (R285). -/
def State.leadWord (s : State) : Word :=
  word (put 63 48 s.aon.epochW.toNat + put 47 32 s.aon.epochE.toNat + put 7 6 s.aon.roleW.code + put 5 4 s.aon.roleE.code
    + s.aon.saddleUp.toNat)

/-- AON_WAKE (R321, R323). -/
def State.wakeWord (s : State) : Word :=
  word (put 16 16 s.aon.asleep.toNat + put 11 8 s.aon.wakeEn.toNat + s.aon.cause.toNat)

/-- PWR_CEILING (R317). -/
def Power.ceilingWord (p : Power) : Word :=
  Machine.word (put 41 32 p.tjLimit.toNat + put 22 16 p.vmax.toNat + p.ceiling.toNat)

/-- PWR_STATUS (R317). -/
def Power.statusWord (p : Power) : Word :=
  Machine.word (put 63 48 p.est.toNat + put 47 38 p.hotCode.toNat + put 37 32 p.hotSite.toNat + put 31 25 p.vreq.toNat
    + put 24 18 p.floor.toNat + put 17 14 p.gate.toNat + put 13 12 p.limit.toNat)

/-- FUSE_PROG_CTL (R347). -/
def Fuses.ctlWord (f : Fuses) : Word :=
  Machine.word (put 62 62 (decide (f.state ≠ .idle)).toNat + put 61 60 f.result.toNat + put 23 16 f.badRecs.toNat
    + put 9 8 f.op.toNat + put 7 0 f.slot.toNat)

/-- Four domains' states a byte, from domain lo on (R317). -/
def State.domWord (s : State) (lo n : Nat) : Word :=
  word ((List.range n).foldl (fun a i =>
    if lo + i < s.cfg.nDoms then a + put (2 * i + 1) (2 * i) (s.dom (lo + i)).code else a) 0)

/-- Whether domain d has taps: a core, a command processor or the Valley network (R305). -/
def State.hasTaps (s : State) (d : Nat) : Bool := decide (d < s.domAon) || d == s.domValley

/-- Word d of the TAP_TABLE window (R329). -/
def State.tapWord (s : State) (d : Nat) : Word :=
  if s.hasTaps d && decide (d < s.cfg.nDoms) then
    word ((List.range 16).foldl (fun a g => a + put (4 * g + 3) (4 * g) (Tab.get 0 s.blk.taps (16 * d + g)).toNat) 0)
  else 0

/-- Eight bytes of the SKEW_TABLE block of Col engine g from byte b (R93, R210). -/
def State.skewWord (s : State) (g b : Nat) : Word :=
  let c := g / 2 * 2
  let k := s.core c
  if s.cfg.nCores ≤ c then 0
  else if k.rep.fenced.toNat.testBit (g % 2) then BitVec.allOnes 64
  else word ((List.range 8).foldl (fun a i =>
    let n := b + i
    let v := if n < 128 then k.skewRow n else physOf (k.rep.colsEx.getD (g % 2) []) (n - 128)
    a + put (8 * i + 7) (8 * i) v) 0)

/-- SKEW_EPOCH of Col engine g (R93). -/
def State.epochWord (s : State) (g : Nat) : Word :=
  let r := (s.core (g / 2 * 2)).rep
  if s.cfg.nCores ≤ g / 2 * 2 then 0
  else word (put 39 32 (r.colsEx.getD (g % 2) []).length + put 31 24 r.rowsEx.length + (r.epochs.getD (g % 2) 0).toNat)

/-- The domain that a global register lives in, if not the always-on domain, whose own word of the TAP_TABLE window lies in it
(R369). -/
def State.regDomain (s : State) (off : Nat) : Option Nat :=
  if off = 0x300 then some (s.domCp s.leadHalf)
  else if 0x400 ≤ off ∧ off < 0x540 ∧ (off - 0x400) / 8 < s.cfg.nDoms ∧ (off - 0x400) / 8 ≠ s.domAon then some ((off - 0x400) / 8)
  else if 0x4000 ≤ off ∧ off < 0x6000 ∧ (off - 0x4000) / 0x100 < s.cfg.nCores then some ((off - 0x4000) / 0x200 * 2)
  else if 0x6000 ≤ off ∧ off < 0x6100 ∧ (off - 0x6000) / 8 < s.cfg.nCores then some ((off - 0x6000) / 16 * 2)
  else none

/-- The value of the global register at a word offset, whatever its domain's state (R369). -/
def State.mgValue (s : State) (off : Nat) : Word :=
  let a := s.aon
  match off with
  | 0x0000 => a.caps0
  | 0x0008 => a.caps1
  | 0x0010 => s.sealWord
  | 0x0018 => word (put 19 19 a.strapErr.toNat + put 18 16 a.bootPort.toNat + a.clamps.toNat)
  | 0x0020 => word (put 7 7 a.testRefused.toNat + a.phase.code)
  | 0x0100 => word a.time.toNat
  | 0x0108 => word a.refKhz.toNat
  | 0x0110 => word (put 63 63 a.armed.toNat + a.alarm.toNat)
  | 0x0118 => word a.therm.toNat
  | 0x0120 => word a.busy.toNat
  | 0x0128 => word a.surveyAt.toNat
  | 0x0130 => s.wakeWord
  | 0x0138 => s.leadWord
  | 0x0200 => a.power.ceilingWord
  | 0x0208 => a.power.statusWord
  | 0x0210 => s.domWord 0 32
  | 0x0218 => s.domWord 32 8
  | 0x0300 => s.marginWord
  | 0x0600 => a.fuses.prog
  | 0x0608 => a.fuses.ctlWord
  | 0x1100 => word (put 8 8 a.fuses.overflow.toNat + a.fuses.log.length)
  | _ =>
    if 0x400 ≤ off ∧ off < 0x540 then s.tapWord ((off - 0x400) / 8)
    else if 0x1000 ≤ off ∧ off < 0x1100 then a.fuses.log.getD ((off - 0x1000) / 8) 0
    else if 0x4000 ≤ off ∧ off < 0x6000 then s.skewWord ((off - 0x4000) / 0x100) (off % 0x100)
    else if 0x6000 ≤ off ∧ off < 0x6100 then s.epochWord ((off - 0x6000) / 8)
    else if 0x8000 ≤ off ∧ off < 0xA800 then Tab.get 0 a.fuses.recs ((off - 0x8000) / 8)
    else 0

/-- A read at the management port: the data and mg_rsp_err (R369). -/
def State.mgRead (s : State) (off : Nat) : Word × Bool :=
  let off := off / 8 * 8
  if s.aon.phase = .scanLock then (0, true)
  else match s.regDomain off with
    | some d => if s.aon.phase = .reset || !s.domOn d then (0, true) else (s.mgValue off, false)
    | none => (s.mgValue off, false)

/-- HP_IRQ_STATUS: bit 5 shows the packet under assembly (R239). -/
def HostPort.irqStatus (h : HostPort) : BitVec 7 := h.irq ||| (if h.asm.isEmpty then 0 else 0x20)

/-- The interrupt line of a port (R239): bit 5 of the mask has no effect. -/
def HostPort.line (h : HostPort) : Bool := decide (h.irqStatus &&& h.mask &&& 0x5F ≠ 0)

/-- The value of the register at an offset of host port p's window (R238). -/
def State.hpValue (s : State) (p off : Nat) : Word :=
  let h := s.hp.getD p .reset
  match off / 8 * 8 with
  | 0x008 => word (put 12 8 h.asm.length + h.credits)
  | 0x010 => word (put 47 12 h.base.toNat + put 4 4 h.en.toNat + h.size.toNat)
  | 0x018 => word h.head.toNat
  | 0x020 => word h.tail.toNat
  | 0x028 => word h.irqStatus.toNat
  | 0x030 => word h.mask.toNat
  | 0x038 => word (put 63 48 0xA5D2 + put 47 40 1 + put 35 35 s.aon.sealed.toNat
      + put 34 34 (decide (h.cpHalf = .east)).toNat + put 18 16 p + s.portTenants p)
  | _ => 0

/-- Host-port groups are not isolated: accesses transfer (R364). -/
def State.portsOpen (s : State) : Bool := decide (s.aon.phase = .opened) || decide (s.aon.phase = .sealed)

/-- A read of host port p; none while the read stalls at the isolated port (R364). -/
def State.hpRead (s : State) (p off : Nat) : Option Word := if s.portsOpen then some (s.hpValue p off) else none

/-! ### Sleep entry abandoned, and the host cause (R318, R319, R323) -/

/-- Bring back a domain that has gone, or is going, to RETAIN. -/
def State.unretain (s : State) (d : Nat) : State :=
  match s.dom d with
  | .still .retain => s.startDom d .on 2
  | .changing .retain _ => s.startDom d .on 2
  | _ => s

/-- The silence and heartbeat timers are held while the block sleeps: they hold the time passed (R319). -/
def State.holdTimers (s : State) : State :=
  let f := fun (k : Cp) => { k with heardAt := s.since k.heardAt, sentAt := s.since k.sentAt }
  (s.modCp .west f).modCp .east f

/-- The Valley network has gone, or is going, to RETAIN: step 3 of the sleep entry under way is done (R318). -/
def State.valleyAway (s : State) : Bool :=
  match s.dom s.domValley with
  | .still r => decide (r = .retain)
  | .changing r _ => decide (r = .retain)

/-- They are held now. -/
def State.timersHeld (s : State) : Bool :=
  decide (s.aon.sleep = .asleep) || (decide (s.aon.sleep = .entering) && s.valleyAway)

/-- They go on from there. -/
def State.resumeTimers (s : State) : State :=
  let f := fun (k : Cp) => { k with heardAt := (s.now + 2 ^ 56 - k.heardAt) % 2 ^ 56, sentAt := (s.now + 2 ^ 56 - k.sentAt) % 2 ^ 56 }
  (s.modCp .west f).modCp .east f

/-- Abandon a sleep entry that has not been acknowledged (R318). -/
def State.abandonSleep (s : State) : State :=
  if s.aon.sleep = .entering then
    let s := if s.valleyAway then s.resumeTimers else s
    let s := (List.range s.cfg.nDoms).foldl State.unretain s
    { s with aon := { s.aon with sleep := .awake } }
  else s

/-- Comparator i fires: its cause bit stands whatever this tick clears, and an enabled one wakes a sleeping block (R320, R323). -/
def State.setCause (s : State) (i : Nat) : State :=
  let b := BitVec.ofNat 4 (1 <<< i)
  { s with aon := { s.aon with
      cause := s.aon.cause ||| b, firedNow := s.aon.firedNow ||| b
      wakeHit := s.aon.wakeHit || (decide (s.aon.sleep = .asleep) && decide (s.aon.wakeEn &&& b ≠ 0)) } }

/-- What a word of HP_SUBMIT does to sleep (R318, R319). -/
def State.wordWakes (s : State) : State := if s.aon.asleep then s.setCause 2 else s.abandonSleep

/-- aon_wake_irq (R323). -/
def State.wakeIrq (s : State) : Bool := decide (s.aon.cause &&& s.aon.wakeEn ≠ 0)

/-! ### Submission (R238, R240, R241) -/

/-- A header as the packet carries it: the port fills its own number (R242). -/
def withPort (p : Nat) (w : Word) : Word := (w &&& ~~~(7#64 <<< 41)) ||| (BitVec.ofNat 64 (p % 8) <<< 41)

/-- Submit the words of a packet at port p. -/
def State.submit (s : State) (p : Nat) (ws : List Word) : State :=
  let q : Packet := {
    id := s.blk.nextPk, port := p, words := ws.modifyHead (withPort p), st := .waiting, half := .west, order := 0
    order2 := none, live := false, todo := [], acted := [], ordered := false, orderSent := false, orderDone := false, asked := false, answered := false
    results := [], chunk := 0, chunks := 0, bucket := 0, bucketLen := 0, pagesLeft := 0, reply := none, retries := [], lost := false }
  { s with blk := { s.blk with pkts := s.blk.pkts ++ [q], nextPk := s.blk.nextPk + 1 } }

/-- One word of HP_SUBMIT (R240). -/
def State.takeWord (s : State) (p : Nat) (h : HostPort) (w : Word) : State :=
  let n := fld w 55 48
  if h.asm.isEmpty then
    if h.credits = 0 then s.raiseIrq p 3
    else if 2 ≤ n ∧ n ≤ 32 then
      s.modHp p fun h => { h with credits := h.credits - 1, asm := [w], asmLen := n }
    else (s.modHp p fun h => { h with credits := h.credits - 1 }).submit p [w]
  else if h.asm.length + 1 = h.asmLen then
    (s.modHp p fun h => { h with asm := [], asmLen := 0 }).submit p (h.asm ++ [w])
  else s.modHp p fun h => { h with asm := h.asm ++ [w] }

/-- A write to HP_SUBMIT. -/
def State.writeSubmit (s : State) (p : Nat) (h : HostPort) (w : Word) (strb : BitVec 8) : State :=
  if strb ≠ 0xFF then s.raiseIrq p 3 else (s.takeWord p h w).wordWakes

/-! ### Reply rings (R245) -/

/-- Entries of a ring. -/
def ringEntries (size : Nat) : Nat := 2 ^ (8 + size)

/-- A ring lies wholly inside a window of a tenant in the port's tenants mask. -/
def State.ringInWindow (s : State) (p base size : Nat) : Bool :=
  (bitsBelow 16 (s.portTenants p)).any fun t => s.inWindow t base (16 * ringEntries size)

/-- Where a ring may lie (R245). -/
def State.ringPlaceOk (s : State) (p base size : Nat) : Bool :=
  if s.aon.sealed then s.ringInWindow p base size else s.backed base (16 * ringEntries size)

def State.writeReplyBase (s : State) (p : Nat) (h : HostPort) (w : Word) (strb : BitVec 8) : State :=
  let base := fld w 47 12
  let en := bitOf w 4
  let size := fld w 3 0
  if strb ≠ 0xFF then s
  else if base = h.base.toNat ∧ size = h.size.toNat ∧ en ≠ h.en then
    if !en || !s.aon.sealed || s.ringInWindow p (4096 * base) size then s.modHp p fun h => { h with en := en }
    else s.raiseIrq p 4
  else if h.credits = 16 ∧ h.asm = [] ∧ size ≤ 8 ∧ (4096 * base) % (16 * ringEntries size) = 0
      ∧ s.ringPlaceOk p (4096 * base) size then
    s.modHp p fun h => { h with
      base := BitVec.ofNat 36 base, en := en, size := BitVec.ofNat 4 size, head := 0, tail := 0 }
  else s.raiseIrq p 4

def State.writeReplyTail (s : State) (p : Nat) (h : HostPort) (w : Word) (strb : BitVec 8) : State :=
  if strb ≠ 0xFF then s
  else s.modHp p fun x => { x with tail := BitVec.ofNat 16 (fld w 15 0 % ringEntries h.size.toNat) }

/-! ### Interrupts and host-port reset (R239, R360, R361) -/

/-- Discard the packet under assembly and return its credit. -/
def State.dropAsm (s : State) (p : Nat) (h : HostPort) : State :=
  if h.asm.isEmpty then s else (s.modHp p fun h => { h with asm := [], asmLen := 0 }).creditBack p

def State.writeIrqStatus (s : State) (p : Nat) (h : HostPort) (w : Word) (strb : BitVec 8) : State :=
  if strb ≠ 0xFF then s
  else
    let s := s.modHp p fun h => { h with irq := h.irq &&& ~~~(BitVec.ofNat 7 (fld w 6 0)) }
    if bitOf w 5 then s.dropAsm p h else s

/-- A host-port reset: the assembly goes, its credit returns, and the interrupt registers are clear (R360). -/
def State.resetPort (s : State) (p : Nat) (h : HostPort) : State :=
  (s.dropAsm p h).modHp p fun h => { h with irq := 0, mask := 0 }

/-- HP_RST. -/
def execHpRst (p : Nat) (s : State) : Out := portCmd s p fun h => s.resetPort p h

def State.writeIrqMask (s : State) (p : Nat) (w : Word) (strb : BitVec 8) : State :=
  if strb ≠ 0xFF then s else s.modHp p fun h => { h with mask := BitVec.ofNat 7 (fld w 6 0) }

/-- A write at an offset of a host-port window (R238). -/
def State.hpWrite (s : State) (p : Nat) (h : HostPort) (off : Nat) (w : Word) (strb : BitVec 8) : State :=
  match off / 8 * 8 with
  | 0x000 => s.writeSubmit p h w strb
  | 0x010 => s.writeReplyBase p h w strb
  | 0x020 => s.writeReplyTail p h w strb
  | 0x028 => s.writeIrqStatus p h w strb
  | 0x030 => s.writeIrqMask p w strb
  | _ => s

/-- A write access at host port p: it transfers, or it stalls while the port is isolated (R352, R364). -/
def State.hpAccess (s : State) (p : Nat) (h : HostPort) (off : Nat) (w : Word) (strb : BitVec 8) : State :=
  if s.portsOpen then s.hpWrite p h off w strb else s.modHp p fun h => { h with stall := h.stall ++ [(off, w, strb)] }

/-- HP_SUBMIT. -/
def execHpSubmit (p : Nat) (w : Word) (strb : BitVec 8) (s : State) : Out := portCmd s p fun h => s.hpAccess p h 0x000 w strb

/-- HP_REPLY_BASE. -/
def execHpReplyBase (p : Nat) (w : Word) (strb : BitVec 8) (s : State) : Out := portCmd s p fun h => s.hpAccess p h 0x010 w strb

/-- HP_REPLY_TAIL. -/
def execHpReplyTail (p : Nat) (w : Word) (strb : BitVec 8) (s : State) : Out := portCmd s p fun h => s.hpAccess p h 0x020 w strb

/-- HP_IRQ_STATUS. -/
def execHpIrqStatus (p : Nat) (w : Word) (strb : BitVec 8) (s : State) : Out := portCmd s p fun h => s.hpAccess p h 0x028 w strb

/-- The accesses that host port p holds transfer, in order (R364). -/
def State.openPort (s : State) (p : Nat) : State :=
  let l := (s.hp.getD p .reset).stall
  l.foldl (fun s w => s.hpWrite p (s.hp.getD p .reset) w.1 w.2.1 w.2.2) (s.modHp p fun h => { h with stall := [] })

/-- Every host port's stalled accesses transfer at the start of phase OPEN. -/
def State.openPorts (s : State) : State := (List.range 8).foldl State.openPort s

end Sys2Proof.Machine
end

