-- ==== Sys2Proof/Machine/Outputs.lean ====
section
/-! DEFINITION. What the block drives at its edges: the level of each output group by the condition of the block, the outputs of
the power, sleep and always-on groups, and what a clamp of hold keeps (R309, R317, R318, R320, R323, R359, R362 to R364, R371,
R373). -/

namespace Sys2Proof.Machine

/-- Output groups, in the order of the clamp straps (R365); memory-port groups by their power group. -/
inductive EdgeGroup where
  | hostStrobes | hostData
  | memStrobes (g : Nat) | memData (g : Nat)
  | management | power | alwaysOn | testSerial | testParallel
  deriving DecidableEq, Repr

/-- What a group shows: it is driven, driven by the boundary register, clamped low or high, or holds what it last drove. -/
inductive EdgeLevel where
  | driven | boundary | low | high | hold
  deriving DecidableEq, Repr

/-- The conditions of the block (R363). The commands reach the last two; the first two are conditions of its supplies, which no
command changes. -/
inductive Condition where
  | absent | unpowered | inReset | inService
  deriving DecidableEq, Repr

/-- The condition with every supply present. -/
def State.condition (s : State) : Condition := if s.pins.blkRstLow then .inReset else .inService

/-- Place of a group's strap (Table — STRAP_STATE). -/
def EdgeGroup.strap : EdgeGroup → Nat
  | .hostStrobes => 0 | .hostData => 1 | .memStrobes _ => 2 | .memData _ => 3 | .management => 4 | .power => 5
  | .alwaysOn => 6 | .testSerial | .testParallel => 7

/-- The level that a group's clamp strap asks for; code 11 acts as 00 (R362). -/
def State.strapLevel (s : State) (g : EdgeGroup) : EdgeLevel :=
  match s.pins.clamps.toNat / 4 ^ g.strap % 4 with
  | 1 => .high
  | 2 => .hold
  | _ => .low

/-- Memory-port groups are isolated from the assertion of blk_rst_n to the start of phase INIT (R364); a fuse reload from
phase OPEN does not isolate them. -/
def State.memIsolated (s : State) : Bool :=
  decide (s.aon.phase = .reset) || (decide (s.aon.phase = .fuseRead) && !s.reloading)

/-- Whether an instruction is refused after SEAL (R371, R374). -/
def Wir.refused : Wir → Bool
  | .extest | .intest | .scan | .mbist => true
  | .bypass | .fuseRd | .sensor | .reserved _ => false

/-- A test instruction straps the output groups: it is loaded, or has been since blk_rst_n last rose (R373). -/
def State.locked (s : State) : Bool := decide (s.aon.phase = .scanLock) || s.aon.wrap.wir.refused

/-- The level that a group shows in a condition of the block (R363, R364, R373). -/
def State.edgeLevelIn (s : State) (c : Condition) (g : EdgeGroup) : EdgeLevel :=
  if c = .absent then s.strapLevel g
  else match g with
  | .testSerial => .driven
  | .testParallel =>
    if c = .inService ∧ (s.aon.wrap.wir = .scan ∨ s.aon.wrap.wir = .mbist) then .driven else s.strapLevel g
  | g =>
    if s.locked then (if s.aon.wrap.wir = .extest then .boundary else s.strapLevel g)
    else match g with
      | .hostStrobes | .hostData => if c = .inService ∧ s.portsOpen then .driven else s.strapLevel g
      | .memStrobes n | .memData n =>
        if c = .inService ∧ !s.memIsolated ∧ s.domOn (s.domGroup n) then .driven else s.strapLevel g
      | _ => .driven

/-- The level that a group shows, every supply being present. -/
def State.edgeLevel (s : State) (g : EdgeGroup) : EdgeLevel := s.edgeLevelIn s.condition g

/-! ### Values of the outputs -/

/-- The power group shows its idle values: the block is in reset, or vdd_core is off and it is in reset (R363). -/
def Condition.quiet (c : Condition) : Bool := decide (c = .unpowered) || decide (c = .inReset)

/-- vcore_code and vcore_req (R309, R363). -/
def State.vcoreIn (s : State) (c : Condition) : BitVec 7 × Bool :=
  if c.quiet then (50, false) else (s.aon.power.vreq, s.aon.power.request)

/-- vpp_req (R359, R363). -/
def State.vppReqIn (s : State) (c : Condition) : Bool := !c.quiet && s.aon.fuses.vppReq

/-- therm_trip (R317, R363). -/
def State.thermTripIn (s : State) (c : Condition) : Bool := decide (c ≠ .unpowered) && s.aon.power.trip

/-- pwr_sleep_ack (R318, R320, R363). -/
def State.sleepAckIn (s : State) (c : Condition) : Bool := !c.quiet && s.aon.asleep

/-- No transfer is on its way, and no line waits or is outstanding. -/
def State.linesIdle (s : State) : Bool :=
  s.blk.xfers.isEmpty && s.blk.readQ.isEmpty && s.blk.writeQ.isEmpty && s.blk.ports.all fun p => p.wrq.isEmpty && p.rdq.isEmpty

/-- mem_sleep_req of power group n: from the end of its outstanding lines at sleep entry until 2 µs after the wake event, for
a group that is active (R318, R320, R363). -/
def State.memSleepReqIn (s : State) (c : Condition) (n : Nat) : Bool :=
  !c.quiet && decide (s.dom (s.domGroup n) ≠ .still .off) &&
    match s.aon.sleep with
    | .awake => false
    | .entering => s.linesIdle
    | .asleep => true
    | .waking t => !s.past t 2

/-! ### Hold (R362) -/

/-- The number of a group among the groups. -/
def EdgeGroup.num : EdgeGroup → Nat
  | .hostStrobes => 0 | .hostData => 1 | .management => 2 | .power => 3 | .alwaysOn => 4 | .testSerial => 5 | .testParallel => 6
  | .memStrobes g => 7 + 2 * g | .memData g => 8 + 2 * g

def State.edgeGroups (s : State) : List EdgeGroup :=
  [.hostStrobes, .hostData, .management, .power, .alwaysOn, .testSerial, .testParallel]
    ++ (List.range s.cfg.nGroups).flatMap fun g => [.memStrobes g, .memData g]

/-- Isolation is about to engage: every group that is driven keeps what it drives. The signals that the state does not hold are a
free value of their own (log entry 34). -/
def State.keepHeld (s : State) : State :=
  let on := s.edgeGroups.filter fun g => decide (s.edgeLevel g = .driven)
  let h := s.aon.held
  let h := if on.contains .hostStrobes then { h with irq := s.hp.map HostPort.line } else h
  let h := if on.contains .power then
      { h with vcore := (s.vcoreIn s.condition).1, vcoreReq := (s.vcoreIn s.condition).2, vppReq := s.vppReqIn s.condition
               sleepAck := s.sleepAckIn s.condition, memSleep := (List.range s.cfg.nGroups).map (s.memSleepReqIn s.condition) }
    else h
  let h := if on.contains .alwaysOn then { h with wakeIrq := s.wakeIrq, trip := s.thermTripIn s.condition } else h
  let h := if on.contains .testParallel then { h with wpo := s.aon.wrap.wpo } else h
  let new := on.map fun g => (g.num, s.free)
  { s with
    aon := { s.aon with held := { h with data := (h.data.filter fun e => !(new.any fun n => n.1 == e.1)) ++ new } }
    free := s.free + 1 }

/-- The cells of the boundary register before those of the power and always-on groups: the host ports, the memory ports with the
sleep handshake of their groups, and the management port, without resets (R371). -/
def Configuration.wbrBase (k : Configuration) : Nat := 8 * 151 + 13147 * k.nPorts + 2 * k.nGroups + 155

/-- Cells of the boundary register, the 16 of the power and always-on groups last: vcore_code, vcore_req, vcore_ack, vpp_req,
vpp_ack, pwr_sleep_req, pwr_sleep_ack, host_wake, aon_wake_irq, therm_trip (DESIGN CHOICE, log entry 26). -/
def Configuration.wbrLen (k : Configuration) : Nat := k.wbrBase + 16

/-! ### Inputs under WS_INTEST (R371) -/

/-- The boundary register drives the inputs. -/
def State.intest (s : State) : Bool := decide (s.aon.wrap.wir = .intest)

/-- The boundary cell of an input of the power and always-on groups, and of mem_sleep_ack of a group: vcore_ack, vpp_ack,
pwr_sleep_req, host_wake. -/
def Configuration.vcoreAckCell (k : Configuration) : Nat := k.wbrBase + 8
def Configuration.vppAckCell (k : Configuration) : Nat := k.wbrBase + 10
def Configuration.sleepReqCell (k : Configuration) : Nat := k.wbrBase + 11
def Configuration.hostWakeCell (k : Configuration) : Nat := k.wbrBase + 13
/-- The first cell of memory port q: rsp_req is its cell 4913, rsp_tag lies at 4915, rsp_idx at 4923, rsp_cnt at 4929, rsp_data at
4934, rsp_err at 13126, wc_cnt at 13142 and fatal at 13146 (R355, R356). -/
def Configuration.memPortCell (_ : Configuration) (q : Nat) : Nat := 8 * 151 + 13147 * q

def Configuration.memAckCell (k : Configuration) (g : Nat) : Nat := 8 * 151 + 13147 * k.nPorts + k.nGroups + g

/-- Inputs of the power, sleep and always-on groups, and mp<q>_fatal, as the block sees them: at the pins, or, under
WS_INTEST, as the boundary register drives them (R371). -/
def State.seen (s : State) : Pins :=
  if s.intest then
    let cell := fun (i : Nat) => s.aon.wrap.driven.getD i false
    { s.pins with
      vppAck := cell s.cfg.vppAckCell, sleepReq := cell s.cfg.sleepReqCell, hostWake := cell s.cfg.hostWakeCell
      memSleepAck := (List.range s.cfg.nGroups).map fun g => cell (s.cfg.memAckCell g)
      memFatal := (List.range s.cfg.nPorts).map fun q => cell (s.cfg.memPortCell q + 13146) }
  else s.pins

/-! ### Pins -/

/-- A signal of a group at its pin: driven with `live`, by its cell of the boundary register, at its clamp, or held. A group that
has driven nothing holds 0. -/
def State.pinOut (s : State) (g : EdgeGroup) (cell : Nat) (live held : Bool) : Bool :=
  match s.edgeLevel g with
  | .driven => live
  | .boundary => s.aon.wrap.driven.getD cell false
  | .low => false
  | .high => true
  | .hold => held && s.aon.held.data.any (·.1 == g.num)

/-- wpo[i] (R362, R363, R371). -/
def State.wpoPin (s : State) (i : Nat) : Bool := s.pinOut .testParallel 0 (s.aon.wrap.wpo.getLsbD i) (s.aon.held.wpo.getLsbD i)

/-- Signal i of a group that the state does not hold, while the group holds: what it last drove. -/
def State.heldBit (s : State) (g : EdgeGroup) (i : Nat) : Bool :=
  match s.aon.held.data.find? (·.1 == g.num) with
  | some e => Config.heldOut e.2 (1024 * i + g.num)
  | none => false

/-- hp<h>_irq. -/
def State.irqPin (s : State) (p : Nat) : Bool :=
  s.pinOut .hostStrobes (151 * p + 150) ((s.hp.getD p .reset).line) (s.aon.held.irq.getD p false)

/-- aon_wake_irq and therm_trip. -/
def State.wakePin (s : State) : Bool := s.pinOut .alwaysOn (s.cfg.wbrBase + 14) s.wakeIrq s.aon.held.wakeIrq
def State.tripPin (s : State) : Bool := s.pinOut .alwaysOn (s.cfg.wbrBase + 15) (s.thermTripIn s.condition) s.aon.held.trip

/-- pwr_sleep_ack, vpp_req and vcore_req. -/
def State.sleepAckPin (s : State) : Bool := s.pinOut .power (s.cfg.wbrBase + 12) (s.sleepAckIn s.condition) s.aon.held.sleepAck
def State.vppPin (s : State) : Bool := s.pinOut .power (s.cfg.wbrBase + 9) (s.vppReqIn s.condition) s.aon.held.vppReq
def State.vcorePin (s : State) : Bool := s.pinOut .power (s.cfg.wbrBase + 7) (s.vcoreIn s.condition).2 s.aon.held.vcoreReq

/-- Bit i of vcore_code. -/
def State.vcodePin (s : State) (i : Nat) : Bool :=
  s.pinOut .power (s.cfg.wbrBase + i) ((s.vcoreIn s.condition).1.getLsbD i) (s.aon.held.vcore.getLsbD i)

/-- mem_sleep_req of power group n. -/
def State.memSleepPin (s : State) (n : Nat) : Bool :=
  s.pinOut .power (8 * 151 + 13147 * s.cfg.nPorts + n) (s.memSleepReqIn s.condition n) (s.aon.held.memSleep.getD n false)

end Sys2Proof.Machine
end

