-- ==== Sys2Proof/Machine/Manage.lean ====
section
/-! DEFINITION. Writes to the global registers, and REGISTER_WRITE at either kind of port (R238, R317, R321 to R323, R346, R347,
R365, R369). -/

namespace Sys2Proof.Machine

open Host

/-! ### Writes to global registers (R317, R321 to R323, R346, R347, R365, R369) -/

/-- A write of the management port takes effect: full width, and not in SCAN_LOCK. -/
def State.mgAccepts (s : State) (strb : BitVec 8) : Bool := strb == 0xFF && decide (s.aon.phase ≠ .scanLock)

/-- The same for a BOOT register. -/
def State.bootAccepts (s : State) (strb : BitVec 8) : Bool := s.mgAccepts strb && !s.aon.sealed

def clampTo (lo hi x : Nat) : Nat := max lo (min hi x)

def State.writeAlarm (s : State) (w : Word) (strb : BitVec 8) : State :=
  if s.mgAccepts strb then
    { s with aon := { s.aon with armed := bitOf w 63, alarm := BitVec.ofNat 56 (fld w 55 0), armedNow := true } }
  else s

/-- AON_ALARM. -/
def execAonAlarm (w : Word) (strb : BitVec 8) (s : State) : Out := .next (s.writeAlarm w strb)

/-- Causes are cleared by ones, but for those that fire in the same tick; the host cause fires again while host_wake stays high
after a clear (R323). -/
def State.writeWake (s : State) (w : Word) (strb : BitVec 8) : State :=
  if s.mgAccepts strb then
    let c := s.aon.cause &&& ~~~(BitVec.ofNat 4 (fld w 3 0) &&& ~~~s.aon.firedNow)
    let s := { s with aon := { s.aon with wakeEn := BitVec.ofNat 4 (fld w 11 8), cause := c } }
    if s.seen.hostWake && !c.getLsbD 2 then s.setCause 2 else s
  else s

/-- AON_WAKE. -/
def execAonWake (w : Word) (strb : BitVec 8) (s : State) : Out := .next (s.writeWake w strb)

def State.writeRef (s : State) (w : Word) (strb : BitVec 8) : State :=
  let f := fld w 16 0
  if s.bootAccepts strb && decide (10000 ≤ f) && decide (f ≤ 100000) then
    { s with aon := { s.aon with refKhz := BitVec.ofNat 17 f } }
  else s

/-- AON_REF. -/
def execAonRef (w : Word) (strb : BitVec 8) (s : State) : Out := .next (s.writeRef w strb)

/-- The supply has settled at the floor, or as near to it as vmax lets it come: a survey waits only where vreq rises (R309, R327). -/
def State.atFloor (s : State) : Bool :=
  decide (min s.aon.power.floor.toNat s.aon.power.vmax.toNat ≤ s.aon.power.vreq.toNat) && !s.aon.power.request

/-- A floor round's 64 us count from the moment at which the supply has settled (R328). -/
def State.settleFloor (s : State) : State :=
  { s with blk := { s.blk with survey := s.blk.survey.map fun v =>
      if v.round = .floor ∧ !v.settled ∧ s.atFloor then { v with settled := true, since := s.now } else v } }

/-- A write of PWR_CEILING (R317); a survey that waits for a floor which the new vmax forbids goes on (R327). -/
def State.writeCeiling (s : State) (w : Word) (strb : BitVec 8) : State :=
  if s.mgAccepts strb then
    State.settleFloor { s with aon := { s.aon with power := { s.aon.power with
        tjLimit := BitVec.ofNat 10 (clampTo 0x218 0x2A4 (fld w 41 32))
        vmax := BitVec.ofNat 7 (clampTo 10 70 (fld w 22 16))
        ceiling := BitVec.ofNat 16 (clampTo s.cfg.wattsMin s.cfg.wattsMax (fld w 15 0)) } } }
  else s

/-- PWR_CEILING. -/
def execPwrCeiling (w : Word) (strb : BitVec 8) (s : State) : Out := .next (s.writeCeiling w strb)

def State.modFuses (s : State) (f : Fuses → Fuses) : State := { s with aon := { s.aon with fuses := f s.aon.fuses } }

/-- A write of AON_REPAIR_CTL: clear empties the log (R346). -/
def State.writeRepairCtl (s : State) (w : Word) (strb : BitVec 8) : State :=
  if s.bootAccepts strb && bitOf w 63 then s.modFuses fun f => { f with log := [], overflow := false } else s

/-- REPAIR_LOG_CLEAR. -/
def execRepairLogClear (w : Word) (strb : BitVec 8) (s : State) : Out := .next (s.writeRepairCtl w strb)

/-- A write of FUSE_PROG_CTL stores op and slot; go starts the operation that op names (R347, R359). A write while busy is
ignored. A reload is taken only in phase OPEN, which it leaves for FUSE_READ; that isolates the host ports, whose outputs keep what
they drive (R362, R364, R365). -/
def State.writeFuseCtl (s : State) (w : Word) (strb : BitVec 8) : State :=
  if s.bootAccepts strb && decide (s.aon.fuses.state = .idle) then
    let op := fld w 9 8
    let s := s.modFuses fun f => { f with op := BitVec.ofNat 2 op, slot := BitVec.ofNat 8 (fld w 7 0) }
    if !bitOf w 63 then s
    else if (op = 0 ∨ op = 1) ∧ (s.aon.phase = .init ∨ s.aon.phase = .ready ∨ s.aon.phase = .opened) then
      s.modFuses fun f => { f with state := .waitHigh (op == 1), vppReq := true }
    else if op = 2 ∧ s.aon.phase = .opened then
      let s := s.keepHeld
      { s with aon := { s.aon with phase := .fuseRead, fuses := { s.aon.fuses with state := .reload } } }
    else s
  else s

/-- FUSE_PROGRAM: a write of FUSE_PROG_CTL with op 00. -/
def execFuseProgram (w : Word) (strb : BitVec 8) (s : State) : Out := .next (s.writeFuseCtl w strb)

/-- FUSE_VOID: a write of FUSE_PROG_CTL with op 01. -/
def execFuseVoid (w : Word) (strb : BitVec 8) (s : State) : Out := .next (s.writeFuseCtl w strb)

/-- FUSE_RELOAD: a write of FUSE_PROG_CTL with op 10. -/
def execFuseReload (w : Word) (strb : BitVec 8) (s : State) : Out := .next (s.writeFuseCtl w strb)

def State.writeFuseProg (s : State) (w : Word) (strb : BitVec 8) : State :=
  if s.bootAccepts strb && decide (s.aon.fuses.state = .idle) then s.modFuses fun f => { f with prog := w } else s

def State.writeTherm (s : State) (w : Word) (strb : BitVec 8) : State :=
  if s.mgAccepts strb then { s with aon := { s.aon with therm := BitVec.ofNat 10 (fld w 9 0) } } else s

def State.writeBootState (s : State) (w : Word) (strb : BitVec 8) : State :=
  if s.mgAccepts strb && bitOf w 7 then { s with aon := { s.aon with testRefused := false } } else s

/-- A write at an offset of the management window (R369). -/
def State.mgWrite (s : State) (off : Nat) (w : Word) (strb : BitVec 8) : State :=
  match off / 8 * 8 with
  | 0x0020 => s.writeBootState w strb
  | 0x0108 => s.writeRef w strb
  | 0x0110 => s.writeAlarm w strb
  | 0x0118 => s.writeTherm w strb
  | 0x0130 => s.writeWake w strb
  | 0x0200 => s.writeCeiling w strb
  | 0x0600 => s.writeFuseProg w strb
  | 0x0608 => s.writeFuseCtl w strb
  | 0x1100 => s.writeRepairCtl w strb
  | _ => s

/-- REGISTER_WRITE: at host port p, or at the management port. -/
def execRegisterWrite (port : Option Nat) (off : Nat) (w : Word) (strb : BitVec 8) (s : State) : Out :=
  match port with
  | some p => portCmd s p fun h => s.hpAccess p h off w strb
  | none => .next (s.mgWrite off w strb)

end Sys2Proof.Machine
end

