-- ==== Sys2Proof/Machine/Drain.lean ====
section
/-! DEFINITION. Drains: taking tiles, crossings, the deferred-drain area, delivery, status words and merges (R82, R85, R112,
R117, R142 to R147, R155, R170 to R178, R202, R203). -/

namespace Sys2Proof.Machine

open Host

/-! ### Tiles (R82, R83, R112) -/

/-- A Col slot as a drained tile. -/
def Slot.tile (s : Slot) (t : TI) : TileData :=
  { eng := s.eng, m := s.mExt, n := s.nExt
    w := (match s.kind with | .f32 | .i32 => 256 | .dwf | .dwi => 128)
    mLim := min t.dMLim s.mExt
    nLim := min (if t.engSel = 2 ∧ s.eng = 1 then t.dNLim1 else t.dNLim) s.nExt
    kind := s.kind, exc := s.exc, cap := s.cap, acc := s.acc }

/-- The order of captures: kpos, then row, then column, then logical engine (R74, R109, R146). -/
def capRank (w : Word) : List Nat := [fld w 29 0, fld w 47 39, fld w 38 30, fld w 57 56]

/-- The first of the valid captures; 0 where there is none. -/
def capFirst (l : List Word) : Word :=
  l.foldl (fun b w =>
    if !bitOf w 63 then b else if !bitOf b 63 || keyLt (capRank w) (capRank b) then w else b) 0

/-- Exception state of the row that holds vector i of a row set. -/
def Core.vecExc (k : Core) (x : RowSet) (i : Nat) : Word × Word := k.rdExc x.tree (i % 4) (x.row + i / 4)

/-- A live row set as a drained tile of the tenant's own vectors (R112, R113). -/
def Core.rowTile (k : Core) (x : RowSet) : TileData :=
  let own := (List.range x.vecMax).filter fun i => !(x.guests.any fun g => g.vec == i)
  { eng := 0, m := x.vecMax, n := rowWidth x.tree, w := rowWidth x.tree
    mLim := x.b, nLim := if x.tree then x.kLim else x.nLim
    kind := if x.int then .i32 else .f32
    exc := own.foldl (fun w i => w ||| (k.vecExc x i).1) 0
    cap := capFirst (own.map fun i => (k.vecExc x i).2)
    acc := (List.range x.vecMax).flatMap fun i =>
      (List.range (rowWidth x.tree)).map fun n => k.rdRow x.tree (i % 4) (x.row + i / 4) n }

/-- What a guest vector's row reports (R117). -/
def Core.guestEntry (k : Core) (x : RowSet) (g : Guest) : LogEntry :=
  let e := k.vecExc x g.vec
  ⟨g.tenant, BitVec.ofNat 4 (fld e.1 13 12), 0, e.2, false⟩

/-! ### Context of a crossing -/

def Drain.ctx (d : Drain) (k : Core) (q : Nat) (t : TileData) (rows : List Nat) : EpiCtx :=
  ⟨d.ti, d.list, k.store, t.kind, q, t.n, rows, t.nLim⟩

/-- Rows of a tile that belong to the core's tenant. -/
def Drain.own (d : Drain) (t : TileData) : List Nat :=
  (List.range t.mLim).filter fun i => !(d.guests.any fun g => g.vec == i)

/-- Rows of a tile that are present: the tenant's own, then those of guests (R117, R156). -/
def Drain.present (d : Drain) (t : TileData) : List Nat := d.own t ++ d.guests.map (·.vec)

/-- A context that serves only to read the list. -/
def Drain.plan (d : Drain) (k : Core) : EpiCtx := d.ctx k 0 default []

def Core.grp (k : Core) (b : Nat) : Group := k.groups.getD b .none

def Core.setGrp (k : Core) (b : Nat) (g : Group) : Core := { k with groups := k.groups.set b g }

/-- Banks that the statistics at positions lo to hi − 1 of a list accumulate in: bank, kind of the first, largest g. -/
def EpiCtx.statBanks (x : EpiCtx) (lo hi : Nat) : List (Nat × Nat × Nat) :=
  [0, 1].filterMap fun b =>
    let gs := ((x.stages.take hi).drop lo).filter fun g => (g.code == cROWSTAT || g.code == cONLINE) && g.bank == b
    gs.head?.map fun g => (b, statKind g, gs.foldl (fun m s => max m s.count) 1)

/-- Some tile of a drain has not left its last crossing. -/
def Drain.holds (d : Drain) : Bool := decide (d.done.length < d.tiles.length)

/-- The bank of the ROWAPPLY before which tiles are held at position p. -/
def EpiCtx.bankAt (x : EpiCtx) (p : Nat) : Nat := ((x.stages[p]?).map (·.bank)).getD 0

/-- Every row of bank b as the first tile of a group leaves it (R172). -/
def resetBank (t : Tab BankRow) (b kind : Nat) : Tab BankRow :=
  (List.range 256).foldl (fun t i => setBankRow t b i ((bankRow t b i).start kind)) t

/-- A tile enters the groups of its statistics (R173). -/
def Core.openBanks (k : Core) (l : List (Nat × Nat × Nat)) : Core :=
  l.foldl (fun k x =>
    if (k.grp x.1).count = 0 then { k.setGrp x.1 ⟨0, x.2.2, false⟩ with banks := resetBank k.banks x.1 x.2.1 } else k) k

/-- A tile counts in its groups; a group that holds no tiles ends with its last (R173, R177). -/
def Core.countBanks (k : Core) (l : List (Nat × Nat × Nat)) (held : Option Nat) : Core :=
  l.foldl (fun k x =>
    let g := k.grp x.1
    if g.total ≤ g.count + 1 && decide (held ≠ some x.1) then k.setGrp x.1 .none
    else k.setGrp x.1 ⟨g.count + 1, g.total, false⟩) k

/-- The held drain whose ROWAPPLY names bank b, and that ROWAPPLY. -/
def Flight.heldOn (b : Nat) (f : Flight) : Option (Drain × Stage) :=
  match f.work with
  | .drain d =>
    if d.holds then (((stagesOf d.list)[d.pos]?).filter fun g => g.bank == b).map fun g => (d, g) else none
  | _ => none

/-- A second crossing is ready: the derived values of a bank stand, and the first drain held on it can go on (R177). -/
def Core.secondReady (k : Core) : Bool :=
  [0, 1].any fun b => (k.grp b).derived && (((k.flight.filterMap (Flight.heldOn b)).head?).map fun x => !x.1.stuck).getD false

/-- Whether the drain's first crossing may begin: no second crossing is ready, which has priority, the area is free for its group, and
no bank that it resets still serves held tiles (R177). -/
def Drain.free (d : Drain) (k : Core) : Bool :=
  let x := d.plan k
  let hi := x.holdPos 0
  !k.secondReady && (x.statBanks 0 hi).all (fun b => !(decide (0 < (k.grp b.1).count) && decide ((k.grp b.1).total ≤ (k.grp b.1).count)))
    && (decide (x.stages.length ≤ hi) || k.area.isNone
        || (decide (k.area = some (x.bankAt hi)) && decide (0 < (k.grp (x.bankAt hi)).count)))

/-! ### Vectors of reductions (R171) -/

/-- The vector position of a reduction: bytes and flags. -/
def Drain.redWrite (d : Drain) (g : Stage) (p idx : Nat) (v : FV) : List (Nat × Byte) × Flags :=
  let old :=
    if 4 ≤ g.sel then
      some (decodeElem g.fmt false 0 (((d.olds.find? fun o => o.1 == p && o.2.1 == idx).map (·.2.2)).getD 0))
    else none
  let r := match old with
    | none => (v, false)
    | some o => if g.sel % 4 = 1 then (maxFV o v, o.sig) else addExact o v
  let c := convert g.fmt g.rnd (!g.ovf) false 0 r.1
  (numBytes (g.addr + idx * g.fmt.bytes) g.fmt.bytes c.1, { c.2 with invalid := c.2.invalid || r.2 })

/-- Positions of a stage code within lo to hi − 1. -/
def EpiCtx.posOf (x : EpiCtx) (lo hi code : Nat) : List (Nat × Stage) :=
  ((List.range hi).filter (lo ≤ ·)).filterMap fun p => (x.stages[p]?).bind fun g => if g.code = code then some (p, g) else none

/-- Results of REDUCE_ROWS or REDUCE_COLS that stand in a table, written and flagged. Where the accumulation of a REDUCE_ROWS over the
tiles of a paired drain is invalid, R378 names the vector position, which belongs to no one tile: the capture names the engine of
tile q, which is 0 there. R378 ranks these results after every element and does not rank them among themselves: the model takes the
capture of the first by tile, then row field, then column field, then stage position, so that a result of REDUCE_COLS comes before
those of REDUCE_ROWS for rows above 0 (DESIGN CHOICE, unsafe, log entry 31). -/
def Drain.redFinish (d : Drain) (x : EpiCtx) (lo hi q : Nat) (rows : Bool) (t : Tab (Option FV)) (o : DrainOut) : DrainOut :=
  (x.posOf lo hi (if rows then cREDROWS else cREDCOLS)).foldl (fun o pg =>
    (List.range 512).foldl (fun o i =>
      match Tab.get none t (1024 * pg.1 + i) with
      | none => o
      | some v =>
        let w := d.redWrite pg.2 pg.1 i v
        { o with
          vecs := o.vecs ++ w.1
          chain := o.chain.or w.2
          key := if w.2.invalid then minKey o.key [1, q, if rows then i else 0, if rows then 0 else i, pg.1] else o.key }) o) o

/-- The old values that a drain reads before its first element (R171). -/
def Drain.readOlds (d : Drain) (m : Mem) (nRows nCols : Nat) : List (Nat × Nat × Nat) :=
  let gs := stagesOf d.list
  ((List.range gs.length).zip gs).flatMap fun pg =>
    let g := pg.2
    if (g.code = cREDROWS ∨ g.code = cREDCOLS) ∧ 4 ≤ g.sel then
      (List.range (if g.code = cREDROWS then nRows else nCols)).map fun i =>
        (pg.1, i, m.num (g.addr + i * g.fmt.bytes) g.fmt.bytes)
    else []

/-! ### Crossings -/

/-- A write of a crossing that a marked word holds back, which replaces it in part (R216): the element that it belongs to, as its
place among the tile's written elements, the word, and the bytes before it, which stand. -/
structure HeldBack where
  place : Nat
  word : Nat
  bytes : List (Nat × Byte)
  deriving DecidableEq, Repr, Inhabited

/-- The write of a crossing that is held back, if one is; `place` gives the element of a byte by its number. -/
def Core.holdsBack (k : Core) (bs : List (Nat × Byte)) (place : Nat → Nat) : Option HeldBack :=
  (k.maskedBad bs).map fun e => ⟨place e.1, e.2, bs.take e.1⟩

/-- What one tile's crossing leaves: the core, the drain, the tile's ordinal in its group, its rows' values, and a write that is
held back. -/
structure Cross where
  k : Core
  d : Drain
  ord : Nat
  vals : List (List (Option (FV × Nat)))
  held : Option HeldBack
  deriving DecidableEq, Repr, Inhabited

/-- Flags of one guest vector, for its tenant (R117). An invalid of the chain or the output conversion goes with no capture: R378
names none for a guest (DESIGN CHOICE, unsafe, log entry 31). -/
def guestFlags (o : DrainOut) (g : Guest) (f : Flags) (poison : Bool) : DrainOut :=
  { o with guestLog := mergeLog o.guestLog ⟨g.tenant, BitVec.ofNat 4 f.code, 0, 0, poison⟩ }

/-- Elements of the tiles before tile q that a drain writes. -/
def Drain.elemsBefore (d : Drain) (q : Nat) : Nat := (d.tiles.take q).foldl (fun n t => n + t.mLim * t.nLim) 0

/-- Tile q of a drain through stages lo to hi − 1. The bitmaps of DROPOUT are written with it (R163). Under REDUCE_COLS column j of
either tile of a paired drain has vector position j, and R171 does not say how the two combine: each is written, tile 1 last, and
with sel[2] each takes the same old value. In the same way the bitmaps that a DROPOUT writes for the two tiles have the same
positions at addr, and R163 does not say how they combine: tile 1's is written over tile 0's. Rows of guests feed neither the
REDUCE_ROWS nor the REDUCE_COLS vectors of a shared drain, on which R171 is silent (DESIGN CHOICE, unsafe, log entry 31). -/
def Drain.crossTile (d : Drain) (lo hi : Nat) (val : Nat → Nat → FV) (k : Core) (q : Nat) : Cross :=
  let t := d.tiles.getD q default
  let own := d.own t
  let x := d.ctx k q t (d.present t)
  let bs := x.statBanks lo hi
  let held := if hi < x.stages.length then some (x.bankAt hi) else none
  let k := k.openBanks bs
  let st : EpiSt := ⟨k.gen, k.banks, {}, {}, d.out.key, [], [], d.rowRed, []⟩
  let seen := fun (g : Option Nat) (s : EpiSt) => s.seen.map fun e => (d.elemsBefore q + e.1 * t.nLim + e.2, g)
  let r := epiTile x lo hi t.m val st
  let o := if d.guests.isEmpty then r.1 else (epiTile { x with rows := own } lo hi t.m val st).1
  let out := { d.out with
    chain := d.out.chain.or o.chain
    out := d.out.out.or o.out
    key := o.key
    poison := d.out.poison || !o.seen.isEmpty
    seen := d.out.seen ++ seen none o }
  let out := d.guests.foldl (fun u g =>
    let s := (epiTile { x with rows := [g.vec] } lo hi t.m val st).1
    guestFlags { u with seen := u.seen ++ seen (some g.tenant) s } g (s.chain.or s.out) !s.seen.isEmpty) out
  let row := r.1.bits.length / max 1 t.m
  { k := (({ k with gen := r.1.gen, banks := r.1.banks }).countBanks bs held).wrStore r.1.bits
    d := { d with out := d.redFinish x lo hi q false o.colRed out, rowRed := o.rowRed }
    ord := match held with
      | some b => if bs.any (·.1 == b) then (k.grp b).count else d.ords.getD q 0
      | none => d.ords.getD q 0
    vals := r.2
    held := k.holdsBack r.1.bits fun n => min (n / max 1 row) t.mLim * t.nLim + min (8 * (n % max 1 row % max 1 ((t.n + 7) / 8))) t.nLim }

/-- Elements of one tile's rows on their way out. -/
def outElems (x : EpiCtx) (q off : Nat) (rows : List Nat) (flat : Bool) (vals : List (List (Option (FV × Nat)))) : List OutElem :=
  rows.flatMap fun i =>
    let l := vals.getD i []
    ((List.range l.length).zip l).filterMap fun e =>
      e.2.map fun v => ⟨q, if flat then 0 else i, e.1, off + e.1, v.1, v.2, x.src⟩

/-- The output conversion of a drain whose tiles have left their last crossing (R155, R203). -/
def Drain.convert (d : Drain) (k : Core) : DrainOut :=
  let t0 := d.tiles.headD default
  let tq := (List.range d.tiles.length).zip (d.tiles.zip d.done)
  let off := fun q => if q = 0 then 0 else t0.n
  let x0 := d.ctx k 0 t0 []
  let fl := fun (o : DrainOut) (f : Flags) => if x0.outCodes.2.2.2.2 then { o with out := o.out.or f } else { o with chain := o.chain.or f }
  let es := tq.flatMap fun y => outElems (d.ctx k y.1 y.2.1 []) y.1 (off y.1) (d.own y.2.1) false y.2.2
  let m := emit x0 d.ti.dPitch t0.m es
  let out := m.flags.foldl (fun o f =>
    let o := fl o f.1
    { o with key := if f.1.invalid then minKey o.key f.2 else o.key }) { d.out with bytes := m.bytes, dx := m.dx, nan := m.nan }
  d.guests.foldl (fun o g =>
    let es := tq.flatMap fun y => outElems (d.ctx k y.1 y.2.1 []) y.1 (off y.1) [g.vec] true y.2.2
    let m := emit x0 d.ti.dPitch 1 es
    guestFlags { o with guestRows := o.guestRows ++ [(g.vec, m.bytes)] } g
      (m.flags.foldl (fun a f => a.or f.1) ({} : Flags)) false) out

/-- Bytes of a held tile in the deferred-drain area (R176): the present elements in binary32, at the tile's ordinal. -/
def TileData.holdBytes (t : TileData) (base ord : Nat) (vals : List (List (Option (FV × Nat)))) : List (Nat × Byte) :=
  ((List.range t.m).zip vals).flatMap fun r =>
    ((List.range t.n).zip r.2).flatMap fun e =>
      match e.2 with
      | some v => numBytes (base + 4 * (ord * t.m * t.n + r.1 * t.n + e.1)) 4 (toB32 v.1)
      | none => []

/-- Element (i, j) of a held tile, read from the area. -/
def TileData.heldElem (t : TileData) (m : Mem) (base ord i j : Nat) : FV :=
  b32 (m.num (base + 4 * (ord * t.m * t.n + i * t.n + j)) 4)

/-- Element (i, j) of a tile as its accumulator holds it. -/
def TileData.accElem (t : TileData) (i j : Nat) : FV := accValue t.kind (t.acc.getD (i * t.n + j) 0)

/-- A crossing's core and drain, and the first write that is held back, by its element among those of the drain. -/
abbrev Crossed := Core × Drain × Option HeldBack

/-- Tile q of a drain crosses, and is then held in the area, or done (R177). -/
def Drain.crossPlace (c lo hi : Nat) (val : Nat → Nat → Nat → FV) (a : Crossed) (q : Nat) : Crossed :=
  let k := a.1
  let d := a.2.1
  let x := d.crossTile lo hi (val q) k q
  let stop := fun (h : Option HeldBack) => a.2.2.or (h.map fun h => { h with place := d.elemsBefore q + h.place })
  if hi < (d.plan k).stages.length then
    let bs := (d.tiles.getD q default).holdBytes (areaBase (isCol c)) x.ord x.vals
    ({ x.k.wrStore bs with area := x.k.area.or (some ((d.plan k).bankAt hi)) },
     { x.d with ords := d.ords.take q ++ x.ord :: d.ords.drop (q + 1), pos := hi },
     stop (x.held.or (x.k.holdsBack bs (· / 4))))
  else (x.k, { x.d with done := x.d.done ++ [x.vals] }, stop x.held)

/-- The tiles of a drain that stand in the area. -/
def Drain.heldTiles (d : Drain) : List Nat := (List.range d.tiles.length).filter (d.done.length ≤ ·)

/-! ### Undefined bytes (R190) -/

/-- Bytes of a list at their places, all free from free value n on. -/
def blurBytes (n : Nat) (l : List (Nat × Byte)) : List (Nat × Byte) :=
  ((List.range l.length).zip l).map fun e => (e.2.1, Config.racedByte (n + e.1))

/-- Free values that a drain's outcome takes. -/
def DrainOut.size (o : DrainOut) : Nat :=
  16 + o.bytes.length + o.vecs.length + o.guestLog.length + o.guestRows.foldl (fun m r => m + r.2.length) 0

/-- The list of a drain holds a POISON_CHECK (R165). -/
def Drain.checks (d : Drain) : Bool := (stagesOf d.list).any fun g => g.code == cPOISON

/-- What a drain that reads undefined bytes of the store computes: every byte, flag and count of it is free, from free value n
on, and what its checks see where it has any (R190, R286; DESIGN CHOICE, safe, log entry 8). -/
def Drain.blur (d : Drain) (n : Nat) : Drain :=
  let o := d.out
  let v := n + 16 + o.bytes.length
  let g := v + o.vecs.length
  let r := g + o.guestLog.length
  { d with out := { o with
      bytes := blurBytes (n + 16) o.bytes
      vecs := blurBytes v o.vecs
      guestRows := (o.guestRows.foldl (fun a x => (a.1 ++ [(x.1, blurBytes a.2 x.2)], a.2 + x.2.length)) (([], r) : List (Nat × List (Nat × Byte)) × Nat)).1
      guestLog := ((List.range o.guestLog.length).zip o.guestLog).map fun e =>
        { e.2 with flags := Config.racedFlags (g + e.1), poison := d.checks && (Config.racedFlags (g + e.1)).getLsbD 3 }
      chain := Flags.ofCode (Config.racedFlags n).toNat
      out := Flags.ofCode (Config.racedFlags (n + 1)).toNat
      nan := Config.racedAcc n
      key := some [0, Config.racedAcc (n + 1) % d.tiles.length, Config.racedAcc (n + 2), Config.racedAcc (n + 3), Config.racedAcc (n + 4)]
      poison := d.checks && (Config.racedFlags (n + 2)).getLsbD 0 } }

/-- A drain about to send what it has computed; where it has read undefined bytes, that is free. -/
def State.settleDrain (s : State) (d : Drain) : State × Drain :=
  if d.raced then ({ s with free := s.free + d.out.size }, d.blur s.free) else (s, d)

/-- A drain about to cross: it reads undefined bytes where a transfer or a spill still owes them to the store. -/
def State.readyDrain (s : State) (c : Nat) (d : Drain) : Drain :=
  { d with raced := d.raced || s.unordered c .drain (inRanges d.reads) }

/-- After a crossing the statistics of a drain that has read undefined bytes are free. -/
def State.blurCross (s : State) (a : Crossed) : State × Crossed :=
  if a.2.1.raced then ({ s with free := s.free + bankRows }, { a.1 with banks := a.2.1.blurBanks s.free a.1.banks }, a.2)
  else (s, a)

/-- Byte ranges of the bitmaps that the DROPOUT stages of a list write, over m rows and n columns (R163). -/
def dropRows (list : List Word) (m n : Nat) : List (Nat × Nat) :=
  (stagesOf list).flatMap fun g =>
    if g.code = 0x10 ∧ g.sel = 1 ∧ 0 < n then (List.range m).map fun i => (g.addr + i * g.count, (n + 7) / 8) else []

/-- Where the tiles of a drain that stand in the area lie (R177). -/
def Drain.areaRows (d : Drain) (c : Nat) : List (Nat × Nat) :=
  d.heldTiles.map fun q =>
    let t := d.tiles.getD q default
    (areaBase (isCol c) + 4 * (d.ords.getD q 0 * t.m * t.n), 4 * (t.m * t.n))

/-- What a drain's crossing has written: the bitmaps of its list and its tiles in the area. -/
def Drain.crossWrites (d : Drain) (c : Nat) : List (Nat × Nat) :=
  (d.tiles.flatMap fun t => dropRows d.list t.m t.n) ++ d.areaRows c

/-! ### Delivery (R198, R203, R117) -/

/-- Send what a drain has computed: guests' rows to their return Fords, the tile to its destination. The vectors of its
reductions follow its last element, with the status word (R171). A marked word of the core's own store that the tile would
replace in part stops the drain (R216, R336). -/
def State.deliver (s : State) (c : Nat) (k : Core) (f : Flight) (d : Drain) : State :=
  let r := s.settleDrain d
  let s := r.1
  let d := r.2
  let o := d.out
  let t := d.ti
  let own := t.dKind = 1
  let w := if own then k.tryStore s.now (shift (t.dDst % 2 ^ 32) o.bytes) else (k, false)
  let d := { d with ph := if own && !w.2 then .delivered else .computed, sent := true, stuck := w.2 }
  let k := if w.2 then w.1.endWith .faultFenced f.idx else w.1
  let s := s.setCore c (k.setFlight { f with work := .drain d })
  let s := if own then s.touch c .drain (runsIn ((shift (t.dDst % 2 ^ 32) o.bytes).map (·.1))) else s
  let s := d.guests.foldl (fun s g =>
    let bs := ((o.guestRows.find? fun r => r.1 == g.vec).map (·.2)).getD []
    s.startXfer g.tenant (.quiet c k.run.runs.toNat f.idx) (.ford g.core g.ford g.off) (.data bs false 0 0 0 [])) s
  let m := (d.tiles.headD default).m
  let n := d.tiles.foldl (fun n t => n + t.n) 0
  let load : Payload := .data o.bytes (t.outFmt == 12) n m t.dPitch o.dx
  match t.dKind with
  | 0 => s.startXfer k.run.tenant (.instr c f.id f.idx) (.fabric t.dDst) load
  | 2 => s.startXfer k.run.tenant (.instr c f.id f.idx) (.ford (fld t.w1 44 40) (fld t.w1 37 32) (fld t.w1 31 0)) load
  | _ => s

/-- After a crossing: the drain waits for the rest of its tiles or for its group, or its last tile has left (R177). -/
def State.afterCross (s : State) (c : Nat) (f : Flight) (a : Crossed) : State :=
  let d := a.2.1
  if d.toTake.isEmpty && !d.holds then
    let s := (s.setCore c a.1).touch c .drain (d.crossWrites c)
    let d := { d with out := d.redFinish (d.plan a.1) 0 (d.plan a.1).stages.length 0 true d.rowRed (d.convert a.1) }
    s.deliver c (s.core c) f { d with done := d.tiles.map fun _ => [], rowRed := [] }
  else
    (s.setCore c (a.1.setFlight { f with work := .drain { d with
        ph := if d.toTake.isEmpty then .held else .taking, reads := d.reads ++ d.areaRows c } })).touch c .drain (d.crossWrites c)

/-! ### Uncorrectable data in a drain (R332, R336) -/

/-- Byte ranges of the store that a stage reads for element (i, j), `old` before the first of them (R159 to R171). -/
def stageReads (g : Stage) (i j : Nat) : List (Nat × Nat) :=
  let w := g.fmt.bytes
  match g.code with
  | 0x01 => if g.sel == 1 then [(g.addr + i * w, w)] else if g.sel == 2 then [(g.addr + j * w, w)] else []
  | 0x02 => [(g.addr + j * w, w)]
  | 0x03 => [(g.addr + i * w, w)]
  | 0x06 => [(g.addr + 64 * g.count * i + j * w, w)]
  | 0x0A => if 4 ≤ g.sel then [(g.addr + i * w, w)] else []
  | 0x0B => if 4 ≤ g.sel then [(g.addr + j * w, w)] else []
  | 0x0F => if g.sel == 1 then [(g.addr + g.count * i + j / 8, 1)] else if g.sel == 2 then [(g.addr + 4 * i, 4)] else []
  | _ => []

/-- The first present element of tile q, as its place in the drain's order among the tile's written elements, whose crossing of
stages lo to hi − 1 reads a marked word, and that word; `own` gives the ranges that hold the element itself. An absent element
reads nothing (R156, R162). -/
def Drain.badElem (d : Drain) (k : Core) (lo hi q : Nat) (own : Nat → Nat → List (Nat × Nat)) : Option (Nat × Nat) :=
  if k.bad.isEmpty then none
  else
    let t := d.tiles.getD q default
    let gs := ((stagesOf d.list).take hi).drop lo
    (d.present t).findSome? fun i => (List.range t.nLim).findSome? fun j =>
      (k.badIn (own i j ++ gs.flatMap fun g => stageReads g i j)).map fun w => (i * t.nLim + j, w)

/-- A drain that uncorrectable data has stopped: its slots stay DRAINING, and the program ends (R332, R336). -/
def State.stickDrain (s : State) (c : Nat) (k : Core) (f : Flight) (d : Drain) : State :=
  s.setCore c ((k.setFlight { f with work := .drain { d with stuck := true } }).endWith .faultFenced f.idx)

/-- Lay bytes at the destination of a transfer without counting. -/
def State.layBefore (s : State) (x : Transfer) (bs : List (Nat × Byte)) : State :=
  match x.dst with
  | .fabric a => s.wrFabric (shift a bs)
  | .store c off => if (x.refusal s).isSome then s else (s.putStore c (shift off bs)).1
  | .ford c n off =>
    if (x.refusal s).isSome || (((s.core c).fordEntry n).map fordReduce).getD false then s
    else (s.putStore c (shift (s.fordAddr c n off) bs)).1

/-- The destination of a drain of core c. -/
def TI.drainLoc (t : TI) (c : Nat) : Loc :=
  match t.dKind with
  | 0 => .fabric t.dDst
  | 1 => .store c (t.dDst % 2 ^ 32)
  | _ => .ford (fld t.w1 44 40) (fld t.w1 37 32) (fld t.w1 31 0)

/-- Bytes of the elements before element n of what a drain writes, once every tile has left its last crossing. -/
def Drain.firstBytes (d : Drain) (k : Core) (n : Nat) : List (Nat × Byte) :=
  if d.holds then []
  else
    let f := (Fmt.ofCode d.ti.outFmt).getD .b32
    (d.convert k).bytes.take (n * if f = .dx16 then 3 else f.bytes)

/-- A drain that stops before element n of what it writes, with what its checks have seen in the elements before, `done` being the
drain as its tiles would have left their crossings; free where those are undefined, free value v (R165, R190). -/
def Drain.sawBefore (d done : Drain) (n v : Nat) : Drain :=
  let seen := done.out.seen.filter fun e => decide (e.1 < n)
  let free := fun (b : Bool) => if done.raced && done.checks then (Config.racedFlags v).getLsbD 3 else b
  { d with out := { d.out with
      poison := free (d.out.poison || seen.any (·.2.isNone))
      guestLog := d.guests.foldl (fun l g =>
        if free (seen.any (·.2 == some g.tenant)) then mergeLog l ⟨g.tenant, 0, 0, 0, true⟩ else l) d.out.guestLog } }

/-- A drain meets uncorrectable data at element n of what it writes, `done` being the drain as its tiles would have left their
crossings: the elements before it stand, what the checks have seen in them stands too, and no status word is written (R165, R336). -/
def State.stopDrain (s : State) (c : Nat) (k : Core) (f : Flight) (d done : Drain) (n : Nat) : State :=
  let bs := if done.raced then blurBytes s.free (done.firstBytes k n) else done.firstBytes k n
  let d := d.sawBefore done n (s.free + bs.length)
  let s := if done.raced then { s with free := s.free + bs.length + 1 } else s
  let s := s.stickDrain c k f d
  s.layBefore ⟨0, k.run.tenant, .quiet c 0 0, d.ti.drainLoc c, .data bs false 0 0 0 [], [], none, [], [], none⟩ bs

/-! ### SLOT_DRAIN_COMPLETE (R85, R112) -/

def Flight.taking (f : Flight) : Bool :=
  match f.work with
  | .drain d => decide (d.ph = .taking)
  | _ => false

/-- The rows of the sum extension that a drain takes, while its row set stands (R104). -/
def Core.drainRowReads (k : Core) (d : Drain) : List (Nat × Nat) :=
  match k.rowSet? d.ti.dTree d.ti.dRow with
  | some x =>
    k.sumRows x.tree x.row (if x.tree then x.kLim else x.nLim) (List.range x.b ++ (x.guests.map (·.vec)).filter (x.b ≤ ·))
  | none => []

/-- The tile of slot i, or of the row set on a Plain core, with the core after its release. -/
def Core.takeTile (k : Core) (c : Nat) (d : Drain) (i : Nat) : Core × TileData × List LogEntry :=
  if isCol c then (k.setSlot i .reset, (k.slot i).tile d.ti, [])
  else
    match k.rowSet? d.ti.dTree d.ti.dRow with
    | some x => (k.dropRowSet d.ti.dTree d.ti.dRow, k.rowTile x, x.guests.map (k.guestEntry x))
    | none => (k, default, [])

/-- Where element (i, j) of a row set that a drain takes lies in the store: the rows of the sum extension (R104). -/
def Core.elemCells (k : Core) (c : Nat) (d : Drain) (i j : Nat) : List (Nat × Nat) :=
  if isCol c then []
  else
    let x := k.rowCell d.ti.dTree (i % 4) (d.ti.dRow + i / 4) j
    if x.1 then [(x.2, 4)] else []

/-- The first of the elements at which a crossing stops: one that reads a marked word, as its place and the word, or one whose
write is held back. -/
def stopAt (read : Option (Nat × Nat)) (write : Option HeldBack) : Option HeldBack :=
  match read, write with
  | some r, some w => if w.place < r.1 then some w else some ⟨r.1, r.2, []⟩
  | some r, none => some ⟨r.1, r.2, []⟩
  | none, w => w

/-- The oldest drain that takes tiles has handed over the next of them: its slot is EMPTY or its rows are free, and the tile
has made its first crossing. -/
def State.slotDrain (s : State) (c f : Nat) (k : Core) : State :=
  match k.flight? f with
  | some ⟨id, idx, .drain d⟩ =>
    if d.ph = .taking && !d.stuck && ((k.flight.find? Flight.taking).map (·.id)) == some f && d.free k then
      match d.toTake with
      | [] => s
      | i :: rest =>
        let r := k.takeTile c d i
        let d := s.readyDrain c { d with
          reads := d.reads.filter fun r => !((k.drainRowReads d).contains r)
          toTake := rest, tiles := d.tiles ++ [r.2.1]
          out := { d.out with guestLog := r.2.2.foldl mergeLog d.out.guestLog } }
        let q := d.tiles.length - 1
        let a := Drain.crossPlace c 0 ((d.plan r.1).holdPos 0) (fun q => (d.tiles.getD q default).accElem) (r.1, d, none) q
        let b := s.blurCross a
        match stopAt ((d.badElem k 0 ((d.plan k).holdPos 0) q (k.elemCells c d)).map fun e => (d.elemsBefore q + e.1, e.2)) a.2.2 with
        | none => b.1.afterCross c ⟨id, idx, .drain d⟩ b.2
        | some h =>
          s.stopDrain c ((k.wrStore h.bytes).markBad s.now h.word) ⟨id, idx, .drain d⟩
            { d with tiles := d.tiles.take q, toTake := i :: rest } a.2.1 h.place
    else s
  | _ => s

/-- SLOT_DRAIN_COMPLETE. -/
def execSlotDrainComplete (c f : Nat) (s : State) : Out := coreCmd s c (s.slotDrain c f)

/-! ### DERIVATION and SECOND_CROSSING (R174, R177) -/

/-- The group of bank b is complete and its derived values wait (R177). -/
def Core.derivable (k : Core) (b : Nat) : Bool :=
  decide (0 < (k.grp b).count) && decide ((k.grp b).total ≤ (k.grp b).count) && !(k.grp b).derived

/-- Derive every row of the bank for the ROWAPPLY that completed the group. -/
def Core.deriveBank (k : Core) (b : Nat) : Core :=
  match (k.flight.filterMap (Flight.heldOn b)).getLast? with
  | none => k
  | some x =>
    let m := (x.1.tiles.headD default).m
    { k.setGrp b { k.grp b with derived := true } with
      banks := (List.range m).foldl (fun t i => setBankRow t b i ((bankRow t b i).derive x.2.sel x.2.c0)) k.banks }

/-- DERIVATION. -/
def execDerivation (c bank : Nat) (s : State) : Out :=
  coreCmd s c fun k => if k.derivable bank then s.setCore c (k.deriveBank bank) else s

/-- Free the groups and the area that no held drain needs any more (R177). -/
def Core.freeArea (k : Core) : Core :=
  let k := [0, 1].foldl (fun k b =>
    if (k.grp b).derived && (k.flight.filterMap (Flight.heldOn b)).isEmpty then k.setGrp b .none else k) k
  if ([0, 1].flatMap fun b => k.flight.filterMap (Flight.heldOn b)).isEmpty then { k with area := none } else k

/-- The held tiles of the first drain at its bank leave the area. -/
def State.secondCross (s : State) (c f : Nat) (k : Core) : State :=
  match k.flight? f with
  | some ⟨id, idx, .drain d⟩ =>
    let b := (d.plan k).bankAt d.pos
    if d.holds && !d.stuck && (k.grp b).derived
        && ((k.flight.find? fun y => (Flight.heldOn b y).isSome).map (·.id)) == some f then
      let hi := (d.plan k).holdPos (d.pos + 1)
      let d := s.readyDrain c d
      let a := d.heldTiles.foldl (Drain.crossPlace c d.pos hi
        fun q => (d.tiles.getD q default).heldElem k.store (areaBase (isCol c)) (d.ords.getD q 0)) (k, d, none)
      let b := s.blurCross a
      let bad := d.heldTiles.findSome? fun q =>
        let t := d.tiles.getD q default
        (d.badElem k d.pos hi q fun i j => [(areaBase (isCol c) + 4 * (d.ords.getD q 0 * t.m * t.n + i * t.n + j), 4)]).map
          fun e => (d.elemsBefore q + e.1, e.2)
      match stopAt bad a.2.2 with
      | none => (b.1.afterCross c ⟨id, idx, .drain d⟩ b.2).modCore c Core.freeArea
      | some h => s.stopDrain c ((k.wrStore h.bytes).markBad s.now h.word) ⟨id, idx, .drain d⟩ d a.2.1 h.place
    else s
  | _ => s

/-- SECOND_CROSSING. -/
def execSecondCrossing (c f : Nat) (s : State) : Out := coreCmd s c (s.secondCross c f)

/-! ### DRAIN_STATUS_WRITE and FORWARDED_MERGE (R144 to R147) -/

/-- acc_flags of a drain. -/
def Drain.accFlags (d : Drain) : Nat := fld (d.tiles.foldl (fun w t => w ||| t.exc) 0) 13 12

/-- All flags of a drain. -/
def Drain.allFlags (d : Drain) : Nat := d.accFlags ||| d.out.chain.code ||| d.out.out.code

/-- The drain status word (R144). -/
def Drain.statusWord (d : Drain) : Word :=
  word (put 63 56 1 + put 55 40 (min d.out.nan 65535) + put 31 16 d.seq + put 15 12 d.accFlags
    + put 11 8 d.out.chain.code + put 7 4 d.out.out.code + put 1 1 d.replayed.toNat + 1)

/-- The capture of a drain that reports invalid (R146, R378). The vector position of a REDUCE_COLS result on a Plain core
belongs to no one vector, and R378 does not say which engine its capture names: the model gives 0, the row field of that place
mod 4 (DESIGN CHOICE, unsafe, log entry 31). -/
def Drain.capture (d : Drain) (core : Nat) : Word :=
  if d.accFlags.testBit 0 then capFirst (d.tiles.map (·.cap))
  else match d.out.key with
    | some [_, q, i, j, p] => capWord core (if isCol core then (d.tiles.getD q default).eng else i % 4) p 3 i j d.seq
    | _ => 0

/-- The drain's merge (R146). -/
def Drain.entry (d : Drain) (core tenant : Nat) : LogEntry :=
  let inv := d.allFlags.testBit 0
  ⟨tenant, BitVec.ofNat 4 d.allFlags, inv.toNat, if inv then d.capture core else 0, d.out.poison⟩

/-- An instruction has done all of its own work: it retires, unless core c is served by a FOLLOWER, whose merges and poison updates
the lead has yet to make (R165, R188, R276). -/
def State.retireMerged (s : State) (c : Nat) (k : Core) (f idx : Nat) : Core :=
  if s.role (s.servedBy c) = .follower then k.setFlight ⟨f, idx, .merging⟩ else k.retire f

/-- A drain whose elements stand at their destination writes the vectors of its reductions and its status word, merges and
retires, once its merge is made (R171, R144, R146, R188); a marked word that one of them would replace in part stops it (R216). -/
def State.statusWrite (s : State) (c f : Nat) (k : Core) : State :=
  match k.flight? f with
  | some ⟨id, idx, .drain d⟩ =>
    if d.ph = .delivered && !d.stuck then
      let bs := numBytes 0 8 d.statusWord.toNat
      let ws := d.out.vecs ++ if d.ti.stKind = 1 then shift (d.ti.stAddr % 2 ^ 32) bs else []
      let w := k.tryStore s.now ws
      if w.2 then s.setCore c ((w.1.setFlight ⟨id, idx, .drain { d with stuck := true }⟩).endWith .faultFenced idx) else
      let k := s.retireMerged c w.1 f idx
      let fl := d.allFlags
      let k := { k with run := { k.run with exc := k.run.exc || decide (fl % 4 ≠ 0), fault := k.run.fault || d.replayed } }
      let s := (s.setCore c k).touch c .drain (runsIn (ws.map (·.1)))
      let s := if d.ti.stKind = 1 then s else s.wrFabric (shift d.ti.stAddr bs)
      let h := s.servedBy c
      let s := s.mergeFrom h (d.entry c k.run.tenant)
      d.out.guestLog.foldl (fun s e => s.mergeFrom h { e with inv := e.flags.toNat % 2 }) s
    else s
  | _ => s

/-- DRAIN_STATUS_WRITE. -/
def execDrainStatusWrite (c f : Nat) (s : State) : Out := coreCmd s c (s.statusWrite c f)

/-- Instructions whose forwarded merges have all been made retire: no merge of their core's tenant is on its way any more. Where
several are, the first to be made lets none of them retire before the last (DESIGN CHOICE, safe, log entry 16). -/
def State.mergesMade (s : State) : State :=
  let f := fun (k : Core) =>
    if s.merged k.run.tenant = true then { k with flight := k.flight.filter fun f => decide (f.work ≠ .merging) } else k
  { s with blk := { s.blk with cores := s.blk.cores.map f } }

/-- A merge that the other half forwarded reaches half h (R146, R276, R282); a side that has lost the lead meanwhile sends it
back. A lead that deems the other side silent, which is not OFF, takes none before the resolution (R283). -/
def State.takeMerge (s : State) (h : Half) : State :=
  if s.role h ≠ .off && !((s.cp h).silent && s.cpUp h.other) then
    match s.takeMsg h fun m => match m with | .merge e => some e | _ => none with
    | some (e, s) => (s.mergeFrom h e).mergesMade
    | none => s
  else s

/-- FORWARDED_MERGE. -/
def execForwardedMerge (h : Half) (s : State) : Out := halfCmd s h (s.takeMerge h)

end Sys2Proof.Machine
end

