-- ==== Sys2Proof/Machine/Program.lean ====
section
/-! DEFINITION. The core sequencer: starting the tile instructions, automatic spills and refills, retirements, page commits,
and the ending of a program (R84 to R90, R99 to R102, R110 to R118, R148, R177, R180, R187 to R210, R218, R219, R315). -/

namespace Sys2Proof.Machine

open Host

/-! ### Starting (R189, R191, R196) -/

/-- The instruction at pc, if it has the opcode. -/
def Core.current (k : Core) (op : Op) : Option TI := (k.img.instrs[k.run.pc]?).filter fun t => decide (t.op? = some op)

/-- Fence and Ford of word 0 allow the start (R187, R189). -/
def Core.startable (k : Core) (t : TI) : Bool := (!t.fence || k.flight.isEmpty) && (!t.waitEn || (k.ford t.waitFord).fired)

/-- Consumption of one firing of Ford n (R196); a Ford that stays fired fires anew (R102). -/
def Core.consumeFord (k : Core) (n : Nat) : Core :=
  (k.modFord n fun f => { f with count := f.count - BitVec.ofNat 24 f.target.toNat }).fireFord n false

/-- Consumption that word 0 asks for. -/
def Core.consume (k : Core) (t : TI) : Core := if t.consume then k.consumeFord t.waitFord else k

/-- LOOP_BACK of R191, and the index of the next instruction. -/
def Core.nextPc (k : Core) (t : TI) : Core :=
  let go := fun (c : Option (BitVec 16)) (pc : Nat) =>
    { k with loops := k.loops.set t.loopLvl c, run := { k.run with pc := pc } }
  let seq := { k with run := { k.run with pc := k.run.pc + 1 } }
  if t.loopOp = 1 then
    match k.loops.getD t.loopLvl none with
    | none => if t.loopRep = 0 then seq else go (some (BitVec.ofNat 16 (t.loopRep - 1))) t.loopTarget
    | some n => if n = 0 then go none (k.run.pc + 1) else go (some (n - 1)) t.loopTarget
  else seq

/-- What a start does in every instruction: the consumption and the choice of the next one. -/
def Core.advance (k : Core) (t : TI) : Core := (k.consume t).nextPc t

/-- Record a started instruction. -/
def Core.launch (k : Core) (w : Work) : Core :=
  { k with flight := k.flight ++ [⟨k.nextF, k.run.pc, w⟩], nextF := k.nextF + 1 }

/-- The sequencer of core c starts the instruction at its pc, if it has the opcode and nothing holds it; `go` answers none
where its unit does not accept it yet. -/
def tileCmd (s : State) (c : Nat) (op : Op) (go : Core → TI → Option State) : Out :=
  coreCmd s c fun k =>
    if k.starting then
      match k.current op with
      | some t => if k.startable t then (go k t).getD s else s
      | none => s
    else s

/-- End the program at the instruction at pc (R194). -/
def State.endAt (s : State) (c : Nat) (k : Core) (st : Status) : State := s.setCore c (k.endWith st k.run.pc)

/-- A fabric range that an instruction of core k names: translated and checked (R194, R235, R236, R289, R291, R292). -/
def State.fabricAt (s : State) (k : Core) (a len : Nat) (write : Bool) : Except Status Nat :=
  let t := k.run.tenant
  match s.translate t k.run.live k.run.chunk a len with
  | none => .error .notPermitted
  | some b =>
    if write && aliasLive a && (s.auth.ten t).stepOpen then .error .notPermitted
    else if !s.inWindow t b len then .error .notPermitted
    else if s.lostRange b len then .error .faultFenced
    else .ok b

/-! ### OPASS (R78, R84 to R86, R199, R210, R376) -/

/-- A spill or refill of slot i is under way (R89). -/
def Core.moving (k : Core) (i : Nat) : Bool :=
  k.flight.any fun f => match f.work with | .spill _ j _ _ => j == i | .refill _ j _ _ _ => j == i | _ => false

/-- Started passes on the physical engines of this one have its mode (R69, R78). -/
def Core.sameMode (k : Core) (t : TI) : Bool :=
  k.flight.all fun f =>
    match f.work with
    | .colPass es _ w _ _ => w == t.wide || !(es.any fun e => t.engines.any fun e' => k.physEng e == k.physEng e')
    | _ => true

/-- Insert an interval of beats, first beat and length, into a list that rises by first beat. -/
def insertSpan (x : Nat × Nat) : List (Nat × Nat) → List (Nat × Nat)
  | [] => [x]
  | y :: t => if x.1 ≤ y.1 then x :: y :: t else y :: insertSpan x t

/-- Beats from `b` on that intervals cover, which rise by first beat. -/
def coverBeats (b : Nat) : List (Nat × Nat) → Nat
  | [] => 0
  | x :: t => (x.1 + x.2 - max b x.1) + coverBeats (max b (x.1 + x.2)) t

/-- Beats in which the lanes of a pass start to multiply: a present row and column at their skews; a paired pass on a survivor is
two passes back to back (R75, R81, R210). -/
def Core.firstBeats (k : Core) (t : TI) : List Nat :=
  let rows := ((List.range t.oMLim).map fun m => k.skewRow (cellOf t.wide m)).eraseDups
  let starts := t.engines.flatMap fun e =>
    let back := if t.forEng1 e && k.rep.fenced.toNat % 4 != 0 then t.kExt else 0
    let cols := ((List.range (t.nLimOf e)).map fun n => k.skewCol e (cellOf t.wide n)).eraseDups
    (rows.flatMap fun r => cols.map fun c => back + r + c).eraseDups
  (List.range (starts.foldl (fun m x => max m (x + 1)) 0)).filter starts.contains

/-- Intervals of beats in which lanes of a pass multiply that starts at beat b: absent lanes bypass their multipliers (R75, R77,
R81). -/
def Core.passSpans (k : Core) (b : Nat) (t : TI) : List (Nat × Nat) :=
  if t.oKLim = 0 then [] else (k.firstBeats t).map fun a => (b + a, t.oKLim)

/-- Beats in which some lane of a pass multiplies. -/
def Core.passBeats (k : Core) (t : TI) : Nat := coverBeats 0 (k.passSpans 0 t)

/-- Beats for which a pass issues to its feeders: a paired pass on a survivor is two passes back to back (R78, R210). -/
def Core.feedBeats (k : Core) (t : TI) : Nat :=
  if t.engSel = 2 ∧ k.rep.fenced.toNat % 4 ≠ 0 then 2 * t.kExt else t.kExt

/-- Beats in which some lane of a row of passes multiplies, each of which starts as its predecessor has issued its last beat, so that
they overlap (R78). -/
def Core.rowBeats (k : Core) (ts : List TI) : Nat :=
  let a := ts.foldl (fun (a : Nat × List (Nat × Nat)) t => (a.1 + k.feedBeats t, (k.passSpans a.1 t).foldl (fun l x => insertSpan x l) a.2)) (0, [])
  coverBeats 0 a.2

/-- What resolving one engine's tag gives: wait, a mismatch with a refilled tag (R376), or the core with the slot ready. -/
inductive TagReady where
  | wait
  | mismatch
  | ready (k : Core) (slot : Nat)
  deriving DecidableEq, Repr, Inhabited

def Core.openTag (k : Core) (t : TI) (e : Nat) : TagReady :=
  match k.slotForNew e (t.tagOf e) with
  | none => .wait
  | some i =>
    if k.moving i then .wait
    else .ready (k.setSlot i (.opened e (t.tagOf e) t.mExt (t.nExtOf e) t.colKind (!t.ovf) k.nextF)) i

def Core.addTag (k : Core) (t : TI) (e : Nat) : TagReady :=
  match k.resident e (t.tagOf e) with
  | none => .wait
  | some i =>
    let x := k.slot i
    if decide (x.st ≠ .acc) || k.moving i then .wait
    else if x.mExt ≠ t.mExt ∨ x.nExt ≠ t.nExtOf e ∨ x.kind ≠ t.colKind ∨ x.sat ≠ !t.ovf then .mismatch
    else .ready k i

/-- One engine's pass into its slot: resolve, add, remember for a replay; `raced` says whether what it reads is undefined. -/
def Core.enginePass (k : Core) (c : Nat) (t : TI) (raced : Nat → Bool) (e : Nat) : TagReady :=
  match if t.oAdd then k.addTag t e else k.openTag t e with
  | .ready k i =>
    let rec_ : PassRec := ⟨k.nextF, t, k.lists, 0, [], [], raced e⟩
    let k := k.runPass c i e rec_
    .ready (k.setSlot i { k.slot i with used := k.nextF, passes := (k.slot i).passes ++ [rec_] }) i
  | r => r

/-- All engines of a pass, logical engine 0 first (R210). -/
def Core.enginePasses (k : Core) (c : Nat) (t : TI) (raced : Nat → Bool) : List Nat → TagReady
  | [] => .ready k 0
  | e :: es =>
    match k.enginePass c t raced e with
    | .ready k _ => k.enginePasses c t raced es
    | r => r

/-! ### Marked words that a pass reads, and undefined bytes (R190, R216, R336) -/

/-- The slots of a Col pass (R84, R210). -/
def Core.passSlots (k : Core) (engs tags : List Nat) : List Nat := (engs.zip tags).filterMap fun x => k.resident x.1 x.2

/-- The row set of a pass becomes DIRTY. -/
def Core.dirtySet (k : Core) (tree : Bool) (row : Nat) : Core :=
  match k.rowSet? tree row with
  | some x => k.setRowSet { x with dirty := true }
  | none => k

/-- Instruction f has stopped and waits for its replay (R377). -/
def Core.isStopped (k : Core) (f : Nat) : Bool := k.rep.stopped.any (·.1 == f)

/-- A replay ends with the instruction that it re-executes (R377). -/
def Core.endReplay (k : Core) (f : Nat) : Core :=
  { k with rep := { k.rep with replaying := k.rep.replaying.filter (·.1 != f) } }

/-- Retire a pass or a refill. -/
def Core.retirePass (k : Core) (f : Nat) : Core := (k.retire f).endReplay f

/-- Whether the lists that a pass latched check for poison (R165). -/
def Core.checksPoison (k : Core) (r : PassRec) : Bool :=
  (r.lists.drop 1).any fun l => (stagesOf (listWords k.img l)).any (·.code == cPOISON)

/-- The step poison of a pass: what its checks have seen, free where they have seen undefined values. -/
def Core.poisonOf (k : Core) (rs : List PassRec) (seen : Bool) (n : Nat) : Bool :=
  if rs.any fun r => r.changed && k.checksPoison r then (Config.racedFlags n).getLsbD 3 else seen

/-- Records of pass f in the slots, and in the row sets. -/
def Core.slotRecs (k : Core) (f : Nat) : List PassRec := k.slots.flatMap fun x => x.passes.filter (·.id == f)
def Core.rowRecs (k : Core) (f : Nat) : List (RowSet × PassRec) :=
  k.plain.sets.flatMap fun x => (x.passes.filter (·.id == f)).map fun r => (x, r)

/-- A started instruction with what its checks have seen: free, from free value n on, where they have seen undefined values (R165,
R190). -/
def Core.polled (k : Core) (n : Nat) (f : Flight) : Flight :=
  match f.work with
  | .colPass es ts w b p => { f with work := .colPass es ts w b (k.poisonOf (k.slotRecs f.id) p n) }
  | .plainPass r t l g b p bad => { f with work := .plainPass r t l g b (k.poisonOf ((k.rowRecs f.id).map (·.2)) p n) bad }
  | .drain d => if d.raced && !d.sent && !d.stuck && !d.tiles.isEmpty then { f with work := .drain (d.blur n) } else f
  | _ => f

/-- Free values that a slot, or the rows of a pass, take. -/
def slotFree : Nat := 131072

/-- Instructions of core c end before their merge or their retirement: what their checks have seen reaches the step-poison bits all
the same. Of a pass that stops midway the checks count as made in every element (R165; DESIGN CHOICE, unsafe, log entry 14). -/
def State.leavePoison (s : State) (c : Nat) (k : Core) (fs : List Flight) : State :=
  let gs := fs.map (k.polled s.free)
  let s := s.mergePoison c k.run.tenant gs
  if gs = fs then s else { s with free := s.free + 4 * slotFree }

/-- A pass receives uncorrectable data, of a word of the store or of an accumulator, or a REFILL a word of its record: it stops, its
slots or rows hold no usable tile, and the program ends (R332, R336). The slot of a REFILL is treated as that of a pass (DEDUCED, log
entry 30). -/
def State.badPass (s : State) (c f : Nat) (word : Option Nat) (k : Core) : State :=
  match k.flight? f with
  | some x =>
    let k1 := match x.work with
      | .colPass es ts _ _ _ =>
        (k.passSlots es ts).foldl (fun (k : Core) i => k.setSlot i { k.slot i with st := .draining }) k
      | .plainPass row tree _ _ _ _ _ => k.dirtySet tree row
      | .refill _ i _ _ _ => k.setSlot i { k.slot i with st := .draining }
      | _ => k
    let k1 := match word with | some w => k1.markBad s.now w | none => k1
    match x.work with
    | .colPass _ _ _ _ _ | .plainPass _ _ _ _ _ _ _ | .refill _ _ _ _ _ =>
      (s.leavePoison c k [x]).setCore c
        (({ k1 with rep := { k1.rep with stopped := k1.rep.stopped.filter (·.1 != f) } }.retirePass f).endWith .faultFenced x.idx)
    | _ => s
  | none => s

/-- A started pass of core c, stopped at once where it reads a marked word (R336). -/
def State.passStarted (s : State) (c f : Nat) (k : Core) (reads : Nat → Bool) : State :=
  match k.badAt reads with
  | none => s.setCore c k
  | some w => s.badPass c f (some w) k

def State.startOpass (s : State) (c : Nat) (k : Core) (t : TI) : Option State :=
  if k.credit < 0 || k.autoMove || !k.sameMode t then none
  else
    match k.enginePasses c t (fun e => s.unordered c .pass (k.colReads t k.lists [e])) t.engines with
    | .wait => none
    | .mismatch => some (s.endAt c k .malformed)
    | .ready k' _ =>
      let poison := t.engines.any fun e => (k.colOps t k.lists e).poison
      some (s.passStarted c k.nextF
        ((k'.launch (.colPass t.engines (t.engines.map t.tagOf) t.wide (k.passBeats t) poison)).advance t)
        (k.colReads t k.lists t.engines))

/-- OPASS. -/
def execOpass (c : Nat) (s : State) : Out := tileCmd s c .opass (s.startOpass c)

/-! ### DPASS and TPASS (R101, R102, R110 to R117, R200, R207) -/

/-- Whether a fill touches a page: a shared slot, but for the two halves of a slot of 4-bit pages. -/
def Fill.touches (f : Fill) (cls page : Nat) : Bool :=
  if f.cls = 0 ∧ cls = 0 then f.page == page
  else (pageSlots f.cls f.page).any fun x => (pageSlots cls page).contains x

/-- Vectors j below n of a guest Ford, the first of which has index b in the dwell (R117). -/
def Core.guestVectors (k : Core) (t : TI) (b n : Nat) : List Guest :=
  let base := fordBase ((k.fordEntry t.guestFord).getD (0, 0))
  (List.range n).map fun j =>
    let r := Config.guestReturn (k.store.words (vecAddr base t.vecPitch j) (t.vecPitch / 8))
    ⟨b + j, (k.ford t.guestFord).sender (vecAddr 0 t.vecPitch j), r.1, r.2.1, r.2.2.1, r.2.2.2⟩

/-- Guests that a shared DPASS takes at its start (R117, R200): the vectors, and whether a firing is consumed. -/
def Core.guestsOf (k : Core) (t : TI) (b : Nat) : List Guest × Bool :=
  if t.share && (k.ford t.guestFord).fired then
    (k.guestVectors t b (min (k.ford t.guestFord).batch.toNat (t.vecMax - b)), true)
  else ([], false)

/-- Vectors of the same firing beyond vec_max, which find no slot: R117 does not say what becomes of them. They are consumed with the
firing, no pass reads them, and they stay open until a command discards them (R118; DESIGN CHOICE, unsafe, log entry 14). -/
def Core.guestsLeft (k : Core) (t : TI) (b : Nat) : List Guest :=
  if t.share && (k.ford t.guestFord).fired then (k.guestVectors t b (k.ford t.guestFord).batch.toNat).drop (t.vecMax - b) else []

/-- Guests of a set joined with those of a pass, by index. -/
def unionGuests (old new : List Guest) : List Guest := old ++ new.filter fun g => !(old.any fun o => o.vec == g.vec)

/-- The row set that a pass leaves live, before its products (R110, R112). -/
def Core.passSet (k : Core) (t : TI) (tree : Bool) (b : Nat) (gs : List Guest) : RowSet :=
  let fresh : RowSet :=
    ⟨tree, t.pRow, t.vecMax, t.plainInt, !t.ovf, b, t.pKLim, t.pNLim, false, false, 0, [], gs, none⟩
  if t.pAdd then
    match k.rowSet? tree t.pRow with
    | some x => { x with b := b, kLim := t.pKLim, nLim := t.pNLim, guests := unionGuests x.guests gs }
    | none => fresh
  else fresh

/-- Whether the rows can take the pass (R111, R112). -/
def Core.rowsReady (k : Core) (t : TI) (tree : Bool) : Bool :=
  if t.pAdd then ((k.rowSet? tree t.pRow).map fun x => !x.draining && !x.dirty).getD false
  else !(k.plain.sets.any fun x => k.clashes x tree t.pRow t.vecMax)

/-- The rows of a pass that OPENs them, all +0; whole words of the sum extension lose their marks (R110, R216). -/
def Core.openIf (k : Core) (t : TI) (tree : Bool) : Core :=
  if t.pAdd then k
  else
    let rs := (rowCells t.pRow t.vecMax).filterMap fun x =>
      let y := k.rowCell tree x.1 x.2 0
      if y.1 then some (y.2, 4 * rowWidth tree) else none
    { k.openRows tree t.pRow t.vecMax with
      bad := k.bad.filter fun w => !(rs.any fun r => decide (r.1 ≤ 8 * w) && decide (8 * w + 8 ≤ r.1 + r.2)) }

/-- Bytes of a guest Ford are read only by the batch assembler (R117). -/
def Core.touchesGuest (k : Core) (a n : Nat) : Bool :=
  k.img.fords.any fun w => fordGuest w && overlap a n (fordBase w) (fordSize w)

/-- Beats of the dwell of v vectors in which its lanes multiply: none with k_lim or n_lim 0 (R103, R113); with an engine fenced the
survivors take its vectors in extra beats (R211). -/
def Core.dwell (k : Core) (t : TI) (v : Nat) : Nat :=
  let q := (v + 3) / 4 * t.parts
  if t.pKLim = 0 ∨ t.pNLim = 0 then 0 else
  match (List.range 4).find? k.engFenced with
  | none => q
  | some f => q + t.parts * ((((List.range v).filter fun i => i % 4 == f).length + 2) / 3)

/-- A word of the header line of a Ford is read for its batch size (R102). -/
def TI.headerReads (t : TI) (base : Nat) : List (Nat × Nat) := if t.batchDyn then [(base, 8)] else []

/-- DPASS and TPASS. A pass with n_lim = 0 is the no-op of R207 on either tree, and one with k_lim = 0 runs; where vec_max = 0 the
pass is a no-op whatever b is, and where b exceeds a vec_max above 0 it is MALFORMED even with n_lim = 0; a pass with k_lim = 0
needs its slots' records although it reads no weight (DESIGN CHOICE, unsafe, log entry 33). No pass starts while an earlier one has
multiply beats left, so that all engines read one page, the current page of the core (R15, R111; log entry 13). -/
def State.startPlain (s : State) (c : Nat) (tree : Bool) (k : Core) (t : TI) : Option State :=
  let entry := (k.fordEntry t.waitFord).getD (0, 0)
  let base := fordBase entry
  let b := if t.batchDyn then (k.ford t.waitFord).batch.toNat else t.vecMax
  let cls := classOf t.fW
  let void := decide (t.vecMax = 0) || decide (t.pNLim = 0) || decide (b = 0)
  if k.credit < 0 || k.flight.any Flight.reads then none
  else if t.batchDyn && decide (t.vecMax < b) && decide (t.vecMax ≠ 0) then some (s.endAt c k .malformed)
  else if !void && k.plain.fills.any (fun f => f.touches cls t.page) then none
  else if !void && !k.pageReady cls t.page then some (s.endAt c k .malformed)
  else if !k.rowsReady t tree then none
  else if void then
    some (s.setCore c (((k.openIf t tree).setRowSet (k.passSet t tree (if t.vecMax = 0 then 0 else b) [])).advance t))
  else
    let g := if tree then ([], false) else k.guestsOf t b
    let gbase := fordBase ((k.fordEntry t.guestFord).getD (0, 0))
    let x := k.passSet t tree b g.1
    let recs := (pageSlots cls t.page).map fun sl => (sl, Tab.get (0, 0) k.plain.recs sl)
    let rec_ : PassRec := ⟨k.nextF, t, k.lists, b, batchVecs b base ++ guestVecs b g.1.length gbase, recs, false⟩
    if (k.pageReads rec_ tree).any fun r => k.touchesGuest r.1 r.2 then some (s.endAt c k .notPermitted) else
    let rec_ := { rec_ with changed := s.unordered c .pass (inRanges (k.plainReads rec_ tree)) }
    let beats := k.dwell t (b + g.1.length)
    let k1 := (k.openIf t tree).runPlain c rec_ tree x.sat x.ksum
    let k2 := k1.setRowSet { x with ksum := x.ksum + redExt tree, passes := x.passes ++ [rec_] }
    let k3 := if g.2 then k2.consumeFord t.guestFord else k2
    let k3 := { k3 with plain := { k3.plain with orphans := k3.plain.orphans ++ if tree then [] else k.guestsLeft t b } }
    some ((s.passStarted c k.nextF
      ((k3.launch (.plainPass t.pRow tree cls t.page beats (k.plainPoison rec_ tree)
        (decide (0 < beats) && k.plain.pageBad cls t.page))).advance t)
      (inRanges (t.headerReads base ++ k.plainReads rec_ tree))).touch c .pass (k.addRows rec_ tree))

/-- DPASS. -/
def execDpass (c : Nat) (s : State) : Out := tileCmd s c .dpass (s.startPlain c false)

/-- TPASS. -/
def execTpass (c : Nat) (s : State) : Out := tileCmd s c .tpass (s.startPlain c true)

/-! ### PFILL (R100, R101, R201) -/

/-- Parts of a page: a 4-byte page stages in two (R201). -/
def fillParts (cls : Nat) : Nat := if cls = 3 then 2 else 1

/-- A part not yet staging takes the next free half of the fill buffer, A before B, and its read is asked for (R100). -/
def State.stageOne (s : State) (c : Nat) : State :=
  let k := s.core c
  let p := k.plain
  match p.fills.find? fun f => decide (f.begun < fillParts f.cls) with
  | none => s
  | some f =>
    if p.halfA.isSome && p.halfB.isSome then s
    else
      let x := s.blk.nextX
      let h : Staged := ⟨f.id, f.begun, x, none, false, []⟩
      let fills := p.fills.map fun g => if g.id = f.id then { g with begun := g.begun + 1 } else g
      let p := if p.halfA.isNone then { p with fills := fills, halfA := some h } else { p with fills := fills, halfB := some h }
      let s := s.setCore c { k with plain := p }
      { s with blk := { s.blk with
        nextX := x + 1
        readQ := s.blk.readQ ++ runsOf x (some c) (linesOf [(f.src + 65536 * h.part, partBytes f.cls)]) } }

/-- The fill buffer stages what its halves have room for (R100). -/
def State.stageNext (s : State) (c : Nat) : State := ((s.stageOne c).stageOne c).service

/-- A page enters the fill buffer's queue under a number of its own. -/
def State.addFill (s : State) (c : Nat) (f : Fill) : State :=
  let s := s.modCore c fun k => { k with plain := { k.plain with fills := k.plain.fills ++ [{ f with id := s.blk.nextX }] } }
  { s with blk := { s.blk with nextX := s.blk.nextX + 1 } }

def State.startPfill (s : State) (c : Nat) (k : Core) (t : TI) : Option State :=
  match s.fabricAt k t.fSrc (pageBytes t.fCls) false with
  | .error st => some (s.endAt c k st)
  | .ok a =>
    some (((s.setCore c ((k.launch .fill).advance t)).addFill c ⟨0, a, t.fCls, t.fPage, some k.nextF, none, none, 0, 0, false⟩).stageNext c)

/-- PFILL. -/
def execPfill (c : Nat) (s : State) : Out := tileCmd s c .pfill (s.startPfill c)

/-! ### PAGE_COMMIT -/

/-- The word of a slot record (R271). -/
def recWord (f : Fill) : Word :=
  word (put 63 48 ((f.image.map (·.toNat)).getD 0) + put 47 47 1 + put 46 46 f.pk.isSome.toNat + put 45 43 f.cls
    + put 40 6 (f.src / 64))

/-- The records of the slots that one commit writes (R100). -/
def Core.commitRecs (k : Core) (f : Fill) (slots : List Nat) : Core :=
  let w := recWord f
  let t := slots.foldl (fun t sl =>
    if f.cls = 0 then
      let old := Tab.get ((0, 0) : Word × Word) t sl
      let keep := recValid old.1 && recClass old.1 == 0 || recValid old.2
      if f.page % 2 = 0 then Tab.set (0, 0) t sl (w, if keep then old.2 else 0)
      else Tab.set (0, 0) t sl (if recValid old.1 && recClass old.1 == 0 then old.1 else 0, w)
    else Tab.set (0, 0) t sl (w, 0)) k.plain.recs
  { k with plain := { k.plain with recs := t } }

/-- A started pass that still reads one of the slots (R101). One that has stopped reads none: what it read is re-filled for its replay
(R121). -/
def Core.reading (k : Core) (slots : List Nat) : Bool :=
  k.flight.any fun f =>
    match f.work with
    | .plainPass _ _ cls pg b _ _ => decide (0 < b) && (pageSlots cls pg).any slots.contains
    | _ => false

/-- A page image, or one part of a 4-byte page, from a half of the fill buffer into the plane (R48, R100, R201). -/
def Core.commitPart (k : Core) (f : Fill) (bs : List (Nat × Byte)) : Core :=
  let all := pageSlots f.cls f.page
  let slots := if f.cls = 3 then (all.drop (2 * f.parts)).take 2 else all
  let k := k.commitRecs f slots
  { k with plain := k.plain.planeWrite (pageAddr f.cls f.page + 65536 * f.parts) (partBytes f.cls) bs }

/-- The half of the fill buffer that holds the next part of a fill, once its last byte has landed. -/
def PlainSt.stagedFor (p : PlainSt) (f : Fill) : Option Staged :=
  (p.halfA.toList ++ p.halfB.toList).find? fun h => h.fill == f.id && h.part == f.parts && h.data.isSome

/-- Halves that serve no fill on a list are free. -/
def PlainSt.freeHalves (p : PlainSt) (keep : Staged → Bool) : PlainSt :=
  { p with halfA := p.halfA.filter keep, halfB := p.halfB.filter keep }

/-- Fills that a predicate keeps, with the halves that stage them. -/
def PlainSt.keepFills (p : PlainSt) (keep : Fill → Bool) : PlainSt :=
  let fs := p.fills.filter keep
  { p with fills := fs }.freeHalves fun h => fs.any (·.id == h.fill)

/-- Fills that a predicate names are dropped at every core, and the halves that they held stage what waits. -/
def State.dropFills (s : State) (gone : Fill → Bool) : State :=
  (List.range s.blk.cores.length).foldl (fun s c =>
    if (s.core c).plain.fills.any gone then
      (s.modCore c fun k => { k with plain := k.plain.keepFills fun f => !gone f }).stageNext c
    else s) s

/-- FILL_PAGES has committed one more page (R252). -/
def State.pageDone (s : State) (id : Nat) : State :=
  match s.pkt? id with
  | none => s
  | some p => s.setPkt { p with pagesLeft := p.pagesLeft - 1 }

/-- The part at the front of the fill buffer commits from its half, unless a started pass still reads its slots or the half holds
uncorrectable data; the half is free, and the next part stages into it (R100, R101). -/
def State.pageCommit (s : State) (c : Nat) (k : Core) : State :=
  match k.plain.fills with
  | [] => s
  | f :: rest =>
    match k.plain.stagedFor f with
    | none => s
    | some h =>
      if k.reading (pageSlots f.cls f.page) || h.bad then s
      else
        let k := k.commitPart f (h.data.getD [])
        let k := { k with plain := k.plain.freeHalves fun g => g.reads != h.reads }
        if f.parts + 1 < fillParts f.cls then
          (s.setCore c { k with plain := { k.plain with fills := { f with parts := f.parts + 1 } :: rest } }).stageNext c
        else
          let k := { k with plain := { k.plain with fills := rest } }
          let s := (s.setCore c (match f.flight with | some n => k.retire n | none => k)).stageNext c
          match f.pk with
          | some p => s.pageDone p
          | none => s

/-- PAGE_COMMIT. -/
def execPageCommit (c : Nat) (s : State) : Out := coreCmd s c (s.pageCommit c)

/-! ### BDRAIN (R85, R112, R148, R198, R202) -/

/-- The instruction with its destination and status addresses translated (R289). -/
def TI.placed (t : TI) (dst st : Nat) : TI :=
  { t with w1 := word (t.w1.toNat / 2 ^ 48 * 2 ^ 48 + dst % 2 ^ 48), w3 := word (t.w3.toNat / 2 ^ 48 * 2 ^ 48 + st % 2 ^ 48) }

/-- Rows and columns that a drain writes, its rows in all, and the most rows and columns of one of its tiles. -/
structure DrainShape where
  m : Nat
  cols : Nat
  mTot : Nat
  mMax : Nat
  nMax : Nat
  /-- The most columns of one of its tiles that are present. -/
  nLim : Nat
  deriving DecidableEq, Repr, Inhabited

/-- The shape of a drain of tiles. -/
def tilesShape (ts : List TileData) : DrainShape :=
  let a := ts.headD default
  ⟨a.mLim, (match ts[1]? with | some b => if b.nLim = 0 then a.nLim else a.n + b.nLim | none => a.nLim), a.m,
    ts.foldl (fun m x => max m x.m) 0, ts.foldl (fun m x => max m x.n) 0, ts.foldl (fun m x => max m x.nLim) 0⟩

/-- Bytes of the destination range of a drain (R203). -/
def TI.spanOf (t : TI) (sh : DrainShape) : Nat := drainSpan ((Fmt.ofCode t.outFmt).getD .b32) t.dPitch sh.mTot sh.m sh.cols

def Core.drainShape (k : Core) (t : TI) (slots : List Nat) (set : Option RowSet) : DrainShape :=
  match set with
  | some x => ⟨x.b, if x.tree then x.kLim else x.nLim, x.vecMax, x.vecMax, rowWidth x.tree, if x.tree then x.kLim else x.nLim⟩
  | none => tilesShape (slots.map fun i => (k.slot i).tile t)

/-- Byte ranges of the store that the lists of a drain touch over m rows and n columns, gaps included. -/
def listSpans (list : List Word) (m n : Nat) : List (Nat × Nat) :=
  if m = 0 ∨ n = 0 then [] else (stagesOf list).map fun g => (g.addr, stageSpan g m n 0 0)

/-- Rows of a drain that are present: those of its tiles, or the vectors of its row set and of its guests (R113, R117, R156). -/
def Core.drainRows (_ : Core) (set : Option RowSet) (sh : DrainShape) : List Nat :=
  List.range sh.m ++ (match set with | some x => (x.guests.map (·.vec)).filter (sh.m ≤ ·) | none => [])

/-- Byte ranges of the store that a drain reads for its present rows and columns. -/
def drainReads (list : List Word) (rows : List Nat) (sh : DrainShape) : List (Nat × Nat) :=
  listRows list (rows.foldl (fun n i => max n (i + 1)) 0) sh.nLim 0 0 0

/-- Byte ranges that the elements of a drain take at its destination (R203). -/
def TI.elemRows (t : TI) (sh : DrainShape) : List (Nat × Nat) :=
  let f := (Fmt.ofCode t.outFmt).getD .b32
  (List.range sh.m).flatMap fun i =>
    if f = .dx16 then [(i * t.dPitch, 2 * sh.cols), (t.dPitch * sh.mTot + 16 * i, (sh.cols + 31) / 32)]
    else [(i * t.dPitch, sh.cols * f.bytes)]

/-- Byte ranges of the store of its own core that a drain writes: its tile, the vectors and bitmaps of its list, and its status
word, and the area where tiles of its groups may stand (R144, R163, R171, R176, R203). -/
def TI.drainWrites (t : TI) (c : Nat) (list : List Word) (sh : DrainShape) : List (Nat × Nat) :=
  (if t.dKind = 1 then (t.elemRows sh).map fun r => (t.dDst % 2 ^ 32 + r.1, r.2) else [])
    ++ (stagesOf list).flatMap (fun g =>
      if g.code = cREDROWS then [(g.addr, sh.m * g.fmt.bytes)]
      else if g.code = cREDCOLS then [(g.addr, sh.nLim * g.fmt.bytes)] else [])
    ++ dropRows list sh.mMax sh.nMax
    ++ (if t.stKind = 1 then [(t.stAddr % 2 ^ 32, 8)] else [])
    ++ (stagesOf list).flatMap fun g =>
      if (g.code = cROWSTAT ∨ g.code = cONLINE) ∧ 1 < g.count then [(areaBase (isCol c), 4 * g.count * sh.mMax * sh.nMax)] else []

/-- Start a drain of slots, or of a row set, that are ready (R194, R202). A fabric destination is checked even where the limits
write nothing (R207, R236). -/
def State.startDrain (s : State) (c : Nat) (k : Core) (t : TI) (slots : List Nat) (set : Option RowSet) : State :=
  let sh := k.drainShape t slots set
  let span := t.spanOf sh
  let dst := if t.dKind = 0 then s.fabricAt k t.dDst (max span 1) true else .ok t.dDst
  let st := if t.stKind = 0 then s.fabricAt k t.stAddr 8 true else .ok t.stAddr
  let list := listWords k.img (k.lists.getD 0 none)
  match dst, st with
  | .error e, _ => s.endAt c k e
  | _, .error e => s.endAt c k e
  | .ok a, .ok b =>
    let rows := k.drainRows set sh
    if (listSpans list sh.mMax sh.nMax).any fun r => k.touchesGuest r.1 r.2 then s.endAt c k .notPermitted else
    let olds := (stagesOf list).flatMap fun g =>
      if g.code = cREDROWS ∧ 4 ≤ g.sel then rows.map fun i => (g.addr + i * g.fmt.bytes, g.fmt.bytes)
      else if g.code = cREDCOLS ∧ 4 ≤ g.sel then [(g.addr, sh.nLim * g.fmt.bytes)] else []
    if let some w := k.badIn olds then s.endAt c (k.markBad s.now w) .faultFenced else
    let d : Drain :=
      { (default : Drain) with
        ti := t.placed a b, list := list, toTake := if set.isSome then [0] else slots, ph := .taking
        guests := (set.map (·.guests)).getD [], seq := k.run.drainSeq % 65536, span := span
        reads := drainReads list rows sh ++ k.sumRows t.dTree t.dRow (if set.isSome then sh.nLim else 0) rows
        writes := t.drainWrites c list sh }
    let d := { d with olds := d.readOlds k.store sh.mMax sh.nMax }
    let k := slots.foldl (fun k i => k.setSlot i { k.slot i with st := .draining }) k
    let k := match set with | some x => k.setRowSet { x with draining := true } | none => k
    let k := { k with run := { k.run with drainSeq := k.run.drainSeq + 1 } }
    s.setCore c ((k.launch (.drain d)).advance t)

/-- A started pass into a row set. -/
def Core.passInto (k : Core) (tree : Bool) (row : Nat) : Bool :=
  k.flight.any fun f => match f.work with | .plainPass r tr _ _ _ _ _ => r == row && tr == tree | _ => false

/-- Tags of a BDRAIN by logical engine. -/
def TI.drainTag (t : TI) (e : Nat) : Nat := if t.engSel = 2 ∧ e = 1 then t.dTag1 else t.dTag

def State.startBdrain (s : State) (c : Nat) (k : Core) (t : TI) : Option State :=
  if isCol c then
    let slots := t.engines.map fun e => k.resident e (t.drainTag e)
    if slots.all (fun i => (i.map fun i =>
        decide ((k.slot i).st = .acc) && !k.passIn i && !k.moving i).getD false) then
      some (s.startDrain c k t (slots.filterMap id) none)
    else none
  else
    match k.rowSet? t.dTree t.dRow with
    | some x => if x.draining || x.dirty || k.passInto t.dTree t.dRow then none else some (s.startDrain c k t [] (some x))
    | none => none

/-- BDRAIN. -/
def execBdrain (c : Nat) (s : State) : Out := tileCmd s c .bdrain (s.startBdrain c)

/-! ### SPILL and REFILL (R86 to R89, R204) -/

def AccKind.code : AccKind → Nat
  | .f32 => 0 | .i32 => 1 | .dwf => 2 | .dwi => 3

def AccKind.ofCode : Nat → AccKind
  | 0 => .f32 | 1 => .i32 | 2 => .dwf | _ => .dwi

def AccKind.isWide : AccKind → Bool
  | .f32 | .i32 => false
  | .dwf | .dwi => true

/-- Offset and width of element (m, n) in a record (R87). -/
def recElem (wide : Bool) (m n : Nat) : Nat × Nat := if wide then (16 * (128 * m + n), 16) else (4 * (256 * m + n), 4)

/-- The trailer (R87). -/
def Slot.trailer (s : Slot) : List Word :=
  [word (put 44 41 s.tag + put 40 32 s.nExt + put 24 16 s.mExt + put 10 10 (!s.sat).toNat + put 9 8 s.kind.code + 1),
   word s.kDone, s.exc, s.cap, 0, 0, 0, 0]

/-- The bytes of a record that are not zero, at offsets from its start. -/
def Slot.record (s : Slot) : List (Nat × Byte) :=
  ((List.range s.mExt).flatMap fun m => (List.range s.nExt).flatMap fun n =>
    let e := recElem s.kind.isWide m n
    numBytes e.1 e.2 (s.acc.getD (m * s.nExt + n) 0)) ++ wordBytes 262144 s.trailer

/-- Write a record into a byte memory. -/
def writeRecord (m : Mem) (a : Nat) (s : Slot) : Mem := (m.clear a recBytes).wrAll (shift a s.record)

/-- The slot that a record spells; none where its trailer fails (R87). R87 makes a non-zero reserved field of the trailer
MALFORMED and also says that the fabric never reads the reserved words, which words 4 to 7 wholly are: the model reads them
and refuses a record in which one is not zero (DESIGN CHOICE, unsafe, log entry 30). -/
def readRecord (m : Mem) (a eng tag used : Nat) : Option Slot :=
  let w := fun i => m.word (a + 262144 + 8 * i)
  let w0 := w 0
  let kind := AccKind.ofCode (fld w0 9 8)
  let mE := fld w0 24 16
  let nE := fld w0 40 32
  let top := if kind.isWide then 128 else 256
  if fld w0 7 0 ≠ 1 ∨ fld w0 63 45 ≠ 0 ∨ fld w0 31 25 ≠ 0 ∨ fld w0 15 11 ≠ 0 ∨ fld (w 1) 63 32 ≠ 0
      ∨ (List.range 4).any (fun i => w (4 + i) != 0) ∨ mE = 0 ∨ top < mE ∨ nE = 0 ∨ top < nE then none
  else
    let acc := (List.range mE).flatMap fun i => (List.range nE).map fun j =>
      let e := recElem kind.isWide i j
      m.num (a + e.1) e.2
    some { Slot.reset with
      st := .acc, eng := eng, tag := tag, mExt := mE, nExt := nE, kind := kind, sat := !bitOf w0 10
      kDone := fld (w 1) 31 0, exc := w 2, cap := w 3, acc := acc, used := used
      org := some (fld (w 1) 31 0, w 2, w 3, acc) }

def State.startSpill (s : State) (c : Nat) (k : Core) (t : TI) : Option State :=
  match k.resident t.sEng t.sTag with
  | some i =>
    if decide ((k.slot i).st = .acc) && !k.passIn i && !k.moving i then
      some (s.setCore c ((k.launch (.spill t.sEng i t.recOff false)).advance t))
    else none
  | none => none

/-- SPILL. -/
def execSpill (c : Nat) (s : State) : Out := tileCmd s c .spill (s.startSpill c)

/-- Load a record into an EMPTY slot; none where its trailer fails. `raced` says that bytes of it are undefined. -/
def Core.loadRecord (k : Core) (i eng tag rec_ : Nat) (auto raced : Bool) : Option Core :=
  (readRecord k.store rec_ eng tag k.nextF).map fun x =>
    (k.setSlot i { x with src := some rec_, stale := raced }).launch (.refill eng i rec_ tag auto)

/-- Whether bytes of a record that a refill reads are still owed to the store (R190). -/
def State.recordRaced (s : State) (c rec_ : Nat) : Bool := s.unordered c .refill (inRanges [(rec_, recBytes)])

def State.startRefill (s : State) (c : Nat) (k : Core) (t : TI) : Option State :=
  match k.slotForNew t.sEng t.sTag with
  | none => none
  | some i =>
    if k.moving i then none
    else if let some w := k.badIn [(t.recOff, recBytes)] then some (s.endAt c (k.markBad s.now w) .faultFenced)
    else match k.loadRecord i t.sEng t.sTag t.recOff false (s.recordRaced c t.recOff) with
      | some k => some (s.setCore c (k.advance t))
      | none => some (s.endAt c k .malformed)

/-- REFILL. -/
def execRefill (c : Nat) (s : State) : Out := tileCmd s c .refill (s.startRefill c)

/-- The pairs (engine, tag) that the instruction at pc names, and whether it opens them. -/
def TI.names (t : TI) : List (Nat × Nat) × Bool :=
  match t.op? with
  | some .opass => (t.engines.map fun e => (e, t.tagOf e), !t.oAdd)
  | some .bdrain => (t.engines.map fun e => (e, t.drainTag e), false)
  | _ => ([], false)

/-- Offset of the record of tag t of logical engine e in the spill area (R86). -/
def Core.autoRec (k : Core) (e t : Nat) : Nat :=
  let nT := (k.img.instrs.flatMap CkCtx.named).foldl (fun m p => max m (p.2 + 1)) 0
  fld (k.img.hdr.getD 1 0) 63 32 + (nT * e + t) * recStride

/-- The victim among slots that the instruction does not name itself (R86). -/
def Core.victimFor (k : Core) (e : Nat) (l : List (Nat × Nat)) : Option Nat :=
  let own := l.filterMap fun p => k.resident p.1 p.2
  let all := (k.slotsOf e).filter fun i => decide ((k.slot i).st = .acc) && !own.contains i
  match all with
  | [] => none
  | i :: js => some (js.foldl (fun b j => if (k.slot j).used < (k.slot b).used then j else b) i)

/-- The pairs that the instruction at pc names, and whether it opens them, where automatic moves serve it (R86). -/
def Core.autoNames (k : Core) : Option (List (Nat × Nat) × Bool) :=
  if k.autoSpill && k.starting then
    match k.img.instrs[k.run.pc]? with
    | some t => if k.startable t then some t.names else none
    | none => none
  else none

/-- Tags of a list that are resident in no slot. -/
def Core.absent (k : Core) (l : List (Nat × Nat)) : List (Nat × Nat) := l.filter fun p => (k.resident p.1 p.2).isNone

/-- The engine of the first absent tag for which its physical engine has no EMPTY slot left. -/
def Core.short (k : Core) : List (Nat × Nat) → Option Nat
  | [] => none
  | p :: ps =>
    match k.short ps with
    | some e => some e
    | none =>
      let need := ((p :: ps).filter fun q => k.physEng q.1 == k.physEng p.1).length
      if ((k.slotsOf p.1).filter fun i => decide ((k.slot i).st = .empty)).length < need then some p.1 else none

def State.autoSpillStep (s : State) (c : Nat) (k : Core) : State :=
  match k.autoNames with
  | some (l, _) =>
    match (k.short (k.absent l)).bind fun e => k.victimFor e l with
    | some i =>
      if k.passIn i || k.moving i then s
      else s.setCore c (k.launch (.spill (k.slot i).eng i (k.autoRec (k.slot i).eng (k.slot i).tag) true))
    | none => s
  | none => s

/-- AUTO_SPILL. -/
def execAutoSpill (c : Nat) (s : State) : Out := coreCmd s c (s.autoSpillStep c)

def State.autoRefillStep (s : State) (c : Nat) (k : Core) : State :=
  match k.autoNames with
  | some (l, false) =>
    match (k.absent l).findSome? fun p => (k.emptySlot p.1).map fun i => (p, i) with
    | some ((e, t), i) =>
      if k.moving i then s
      else if let some w := k.badIn [(k.autoRec e t, recBytes)] then s.endAt c (k.markBad s.now w) .faultFenced
      else match k.loadRecord i e t (k.autoRec e t) true (s.recordRaced c (k.autoRec e t)) with
        | some k => s.setCore c k
        | none => s.endAt c k .malformed
    | none => s
  | _ => s

/-- AUTO_REFILL. -/
def execAutoRefill (c : Nat) (s : State) : Out := coreCmd s c (s.autoRefillStep c)

/-- The record of a spill is complete: the store holds it and the slot is EMPTY (R85). -/
def Core.spillDone (k : Core) (f : Nat) : Core :=
  match k.flight? f with
  | some ⟨_, _, .spill _ i rec_ _⟩ =>
    { k.setSlot i .reset with
      store := writeRecord k.store rec_ (k.slot i)
      bad := k.bad.filter fun w => decide (8 * w + 8 ≤ rec_) || decide (rec_ + recBytes ≤ 8 * w)
      flight := (k.retire f).flight }
  | _ => k

/-- Where a started spill writes its record. -/
def Core.spillAt (k : Core) (f : Nat) : List (Nat × Nat) :=
  match k.flight? f with
  | some ⟨_, _, .spill _ _ rec_ _⟩ => [(rec_, recBytes)]
  | _ => []

/-- SPILL_COMPLETE. -/
def execSpillComplete (c f : Nat) (s : State) : Out :=
  coreCmd s c fun k => (s.setCore c (k.spillDone f)).touch c .other (k.spillAt f)

/-! ### Undefined bytes in tiles (R90, R121, R190)

What a pass makes of undefined bytes is free: the elements that it adds into, and the exception state of their tile or row
(DESIGN CHOICE, safe, log entry 8). -/

/-- An exception state whose flags and capture are free (R143, R145). -/
def blurExc (n : Nat) (w : Word) : Word × Word :=
  ((w &&& ~~~(3#64 <<< 12)) ||| (((Config.racedFlags n).setWidth 64 &&& 3#64) <<< 12), Config.racedWord n)

/-- A slot some of whose elements are free, from free value n on. -/
def Slot.blur (x : Slot) (inside : Nat → Nat → Bool) (n : Nat) : Slot :=
  let e := blurExc n x.exc
  { x with
    acc := x.acc.mapIdx fun i a =>
      if inside (i / max 1 x.nExt) (i % max 1 x.nExt) then Config.racedAcc (n + 1 + i) % 2 ^ (if x.kind.isWide then 128 else 32) else a
    exc := e.1, cap := e.2 }

/-- What a recorded pass over undefined bytes leaves of its slot, and what an undefined record leaves of one. -/
def PassRec.blur (r : PassRec) (n : Nat) (x : Slot) : Slot :=
  if r.changed then x.blur (fun i j => decide (i < r.ti.oMLim) && decide (j < r.ti.nLimOf x.eng)) n else x

def Slot.blurStale (x : Slot) (n : Nat) : Slot := if x.stale then x.blur (fun _ _ => true) n else x

/-- The rows that a recorded pass has added undefined values into. -/
def Core.blurRows (k : Core) (x : RowSet) (r : PassRec) (n : Nat) : Core :=
  if !r.changed then k
  else r.vecs.foldl (fun k v =>
    let e := v.1 % 4
    let row := x.row + v.1 / 4
    ((List.range (if x.tree then r.ti.pKLim else r.ti.pNLim)).foldl
      (fun k j => k.wrRow x.tree e row j (Config.racedAcc (n + 1 + 512 * v.1 + j))) k).wrExc x.tree e row
        (blurExc (n + 1 + 512 * v.1) (k.rdExc x.tree e row).1)) k

/-- Slots after the retirement of pass f: what it made of undefined bytes is free. -/
def Core.blurSlots (k : Core) (f n : Nat) : Core :=
  { k with slots := k.slots.mapIdx fun i x => (x.passes.filter (·.id == f)).foldl (fun x r => r.blur (n + slotFree * i) x) x }

/-- A refill ends; where bytes of its record have been written meanwhile, its tile is undefined. -/
def State.refillDone (s : State) (c f : Nat) (k : Core) : State :=
  match k.flight? f with
  | some ⟨_, _, .refill _ i _ _ _⟩ =>
    if k.isStopped f then s
    else
      let x := k.slot i
      let s := s.setCore c ((if x.stale then k.setSlot i (x.blurStale s.free) else k).retirePass f)
      if x.stale then { s with free := s.free + slotFree } else s
  | _ => s

/-- REFILL_COMPLETE. -/
def execRefillComplete (c f : Nat) (s : State) : Out := coreCmd s c (s.refillDone c f)

/-! ### PASS_RETIRE and PLAIN_PASS_RETIRE (R77, R111, R165) -/

/-- Core k after pass f, with the step-poison update that its checks ask for: it retires, or awaits that update (R165). -/
def State.passEnds (s : State) (c f idx : Nat) (poison : Bool) (k : Core) : State :=
  if poison then (s.setCore c ((s.retireMerged c k f idx).endReplay f)).poisonFrom c k.run.tenant
  else s.setCore c (k.retirePass f)

/-- A pass of a Col core retires; while an automatic spill or refill runs, both engines stand still (R86). -/
def State.passRetire (s : State) (c f : Nat) (k : Core) : State :=
  match k.flight? f with
  | some ⟨_, idx, .colPass _ _ _ _ p⟩ =>
    if k.isStopped f || k.autoMove then s else
    let rs := k.slotRecs f
    let p := k.poisonOf rs p s.free
    if rs.any (·.changed) then { s with free := s.free + 4 * slotFree }.passEnds c f idx p (k.blurSlots f s.free)
    else s.passEnds c f idx p k
  | _ => s

/-- PASS_RETIRE. -/
def execPassRetire (c f : Nat) (s : State) : Out := coreCmd s c (s.passRetire c f)

/-- A pass of a Plain core retires; one that has read bad parity stops with PLANE_PARITY_FAULT instead (R119, R121). A POISON_CHECK of
the prologue of a shared DPASS that sees what it looks for in a guest vector sets the step-poison bit of the core's tenant: R165 does
not name whose (DESIGN CHOICE, unsafe, log entry 14). -/
def State.plainRetire (s : State) (c f : Nat) (k : Core) : State :=
  match k.flight? f with
  | some ⟨_, idx, .plainPass _ _ _ _ _ p bad⟩ =>
    if k.isStopped f || bad then s else
    let rs := k.rowRecs f
    let p := k.poisonOf (rs.map (·.2)) p s.free
    if rs.any (·.2.changed) then
      { s with free := s.free + slotFree }.passEnds c f idx p (rs.foldl (fun (k : Core) (x : RowSet × PassRec) => k.blurRows x.1 x.2 s.free) k)
    else s.passEnds c f idx p k
  | _ => s

/-- PLAIN_PASS_RETIRE. -/
def execPlainPassRetire (c f : Nat) (s : State) : Out := coreCmd s c (s.plainRetire c f)

/-! ### XFER (R189, R198, R205, R207, R218, R219) -/

/-- The DMA holds eight XFERs, and a ninth waits for the oldest of them: it starts once none of those that started eight or more
before it is left (R189; DEDUCED, log entry 16). -/
def Core.dmaFull (k : Core) : Bool :=
  k.flight.any fun f => match f.work with | .xfer _ n => decide (n + 8 ≤ k.nextD) | _ => false

def TI.copy (t : TI) (src : Loc) : Payload :=
  .copy src t.xSrcPitch t.rows t.rowBytes t.xDstPitch t.skew t.skewEng t.skewWide t.skewFmt

/-- Reach of the skew writer beyond its destination, checked when the transfer starts (R219). -/
def State.skewPast (s : State) (dst : Loc) (p : Payload) : Bool :=
  match p with
  | .copy _ _ _ _ _ sk _ _ _ =>
    decide (sk ≠ 0) &&
    (match dst with
      | .fabric _ => false
      | .store c o => decide (storeSize (isCol c) < o + copyExtent (s.core c) p)
      | .ford c n o =>
        match (s.core c).fordEntry n with
        | none => false
        | some w => decide (fordSize w < o + copyExtent (s.core c) p))
  | .data _ _ _ _ _ _ => false

def State.startXferTile (s : State) (c : Nat) (k : Core) (t : TI) : Option State :=
  let void := t.rows = 0 ∨ t.rowBytes = 0
  let ford : Loc := .ford (fld t.w2 44 40) (fld t.w2 37 32) (fld t.w2 31 0)
  if void then
    let s1 := s.setCore c { k.advance t with nextF := k.nextF + 1 }
    some (if t.xDstKind = 2 then s1.startXfer k.run.tenant (.quiet c k.run.runs.toNat k.run.pc) ford (t.copy (.store c 0)) else s1)
  else if k.dmaFull then none
  else
    let sspan := (t.rows - 1) * t.xSrcPitch + t.rowBytes
    let src := if t.xSrcKind = 0 then (s.fabricAt k t.xSrc sspan false).map Loc.fabric
               else if k.touchesGuest (t.xSrc % 2 ^ 32) sspan then .error .notPermitted
               else .ok (.store c (t.xSrc % 2 ^ 32))
    let dspan := (t.rows - 1) * t.xDstPitch + t.rowBytes
    let dst := match t.xDstKind with
      | 0 => (s.fabricAt k t.xDst dspan true).map Loc.fabric
      | 1 => .ok (.store c (t.xDst % 2 ^ 32))
      | _ => .ok ford
    match src, dst with
    | .error e, _ => some (s.endAt c k e)
    | _, .error e => some (s.endAt c k e)
    | .ok a, .ok b =>
      let p := t.copy a
      if s.skewPast b p then some (s.endAt c k .malformed)
      else
        let s1 := s.setCore c { (k.launch (.xfer s.blk.nextX k.nextD)).advance t with nextD := k.nextD + 1 }
        some (s1.startXfer k.run.tenant (.instr c k.nextF k.run.pc) b p)

/-- XFER. -/
def execXfer (c : Nat) (s : State) : Out := tileCmd s c .xfer (s.startXferTile c)

/-! ### Landings (R196, R197, R225 to R227) -/

def State.landStore (s : State) (x : Transfer) : State :=
  match x.dst with
  | .store c off =>
    if !s.ready x || (x.refusal s).isSome then s else s.writeAt x c off fun s => s.xferDone x
  | _ => s

/-- TRANSFER_LANDING. -/
def execTransferLanding (x : Nat) (s : State) : Out :=
  .next (match s.xfer? x with | some t => s.landStore t | none => s)

/-- The Ford that a transfer is bound for sets reduce. -/
def State.toReduce (s : State) (x : Transfer) : Bool :=
  match x.dst with
  | .ford c n _ => (((s.core c).fordEntry n).map fordReduce).getD false
  | _ => false

def State.fordArrival (s : State) (x : Transfer) : State :=
  match x.dst with
  | .ford c n off =>
    if s.toReduce x || !s.ready x || (x.refusal s).isSome then s
    else s.writeAt x c (s.fordAddr c n off) fun s => (s.countArrival x c n off).xferDone x
  | _ => s

/-- FORD_ARRIVAL. -/
def execFordArrival (x : Nat) (s : State) : Out :=
  .next (match s.xfer? x with | some t => s.fordArrival t | none => s)

def State.reduceArrival (s : State) (x : Transfer) : State :=
  match x.dst, x.load with
  | .ford c n off, .data bs _ nc m pitch es =>
    if !s.toReduce x || !s.ready x || (x.refusal s).isSome then s
    else
      let line := fordBase (((s.core c).fordEntry n).getD (0, 0))
      match reduceBad (s.core c) n line off bs nc m pitch with
      | some w => (s.modCore c fun k => k.markBad s.now w).xferFail x .faultFenced 0 0
      | none =>
        (((s.modCore c fun k => reduceApply k n line off bs nc m pitch es).touch c .other
          (reduceRows line off nc m pitch)).countArrival x c n off).xferDone x
  | _, _ => s

/-- REDUCE_ON_ARRIVAL. -/
def execReduceOnArrival (x : Nat) (s : State) : Out :=
  .next (match s.xfer? x with | some t => s.reduceArrival t | none => s)

/-- A receiving core refuses the delivery, in its turn, and its sender learns it (R197, R224, R225). The detail of a refused
MOVE names the destination word, or the core (R243). -/
def State.refuse (s : State) (x : Transfer) : State :=
  match x.refusal s with
  | none => s
  | some st =>
    if !s.ready x then s else
    if st = .malformed then s.xferFail x st 1 (2 * 2 ^ 27) else s.xferFail x st 4 (1 <<< x.dstCore.getD 0)

/-- DELIVERY_REFUSAL. -/
def execDeliveryRefusal (x : Nat) (s : State) : Out :=
  .next (match s.xfer? x with | some t => s.refuse t | none => s)

/-! ### Control instructions (R148, R196, R206) -/

/-- AWAIT. -/
def execAwait (c : Nat) (s : State) : Out := tileCmd s c .await fun k t => some (s.setCore c (k.advance t))

/-- ARM: the consumption, the clear, then the new T (R196); a Ford that it makes fire fixes its batch size (R102). -/
def Core.arm (k : Core) (t : TI) : Core :=
  if t.armTarget = 0 then k
  else (k.modFord t.armFord fun f =>
    { f with count := if t.armClear then 0 else f.count, target := BitVec.ofNat 16 t.armTarget }).fireFord t.armFord
      (k.ford t.armFord).fired

/-- ARM. -/
def execArm (c : Nat) (s : State) : Out := tileCmd s c .arm fun k t => some (s.setCore c ((k.advance t).arm t))

/-- The target of a list of the chain table (R149). -/
def Core.listTarget (k : Core) (i : Nat) : Nat := chTarget ((k.img.chains.getD i []).headD 0)

/-- CHAIN. -/
def execChain (c : Nat) (s : State) : Out :=
  tileCmd s c .chain fun k t =>
    some (s.setCore c { k.advance t with lists := k.lists.set 0 (if t.listEmpty then none else some t.listIdx) })

/-- PCHAIN. -/
def execPchain (c : Nat) (s : State) : Out :=
  tileCmd s c .pchain fun k t =>
    some (s.setCore c { k.advance t with
      lists := if t.listEmpty then k.lists.set t.pTarget none else k.lists.set (k.listTarget t.listIdx) (some t.listIdx) })

/-- MARK: the always-on time and the count of a phase timer. -/
def Core.markPhase (k : Core) (i : Nat) (now : BitVec 56) : Core :=
  { k with phases := k.phases.modify i fun p => ⟨BitVec.ofNat 8 (satAdd 8 p.marks.toNat 1), now⟩ }

/-- MARK. -/
def execMark (c : Nat) (s : State) : Out :=
  tileCmd s c .mark fun k t => some (s.setCore c ((k.advance t).markPhase t.markId s.aon.time))

/-- Every instruction has retired, every merge has been made and every transfer counted (R206). -/
def State.settled (s : State) (c : Nat) (k : Core) : Bool :=
  k.flight.isEmpty
  && s.blk.xfers.all (fun x => match x.owner, x.load with | .instr d _ _, _ | .quiet d _ _, .copy .. => d != c | _, _ => true)
  && s.merged k.run.tenant

/-- SYNC. -/
def execSync (c : Nat) (s : State) : Out :=
  tileCmd s c .sync fun k t => if s.settled c k then some (s.setCore c (k.advance t)) else none

/-! ### Ending (R194, R206, R250) -/

/-- Guest vectors of a drain that has not sent its rows; while its row set still stands they are with it. -/
def Flight.guests (f : Flight) : List Guest :=
  match f.work with
  | .drain d => if d.sent || !d.toTake.isEmpty then [] else d.guests
  | _ => []

/-- The core's part of its run ends with a status: CORE_RUN_STATUS, and the result for its packet. Guest vectors that a drain has
not delivered stay open (R118), and what the checks of its instructions have seen does not wait for merges that never come (R165). -/
def State.coreDone (s : State) (c : Nat) (k : Core) (status : Nat) (idx : Nat) : State :=
  let r := { k.run with
    status := BitVec.ofNat 8 status, failIdx := idx, state := if k.run.unloaded = 0 then .loaded else .empty, runs := k.run.runs + 1, ending := none, pkt := none }
  let s1 := (s.setCore c { k with
    run := r, flight := [], area := none
    plain := { k.plain with orphans := k.plain.orphans ++ k.flight.flatMap Flight.guests } }).leavePoison c k k.flight
  match k.run.pkt.bind s.pkt? with
  | some p =>
    s1.setPkt { p with results := p.results ++ [⟨c, BitVec.ofNat 8 status, idx, k.run.fault, k.run.exc, k.rep.coreFenced⟩] }
  | none => s1

/-- The status of a program that reaches END (R147, R250). -/
def RunSt.endStatus (r : RunSt) : Status := if r.fault then .faultRetried else if r.exc then .okExceptions else .ok

/-- END. -/
def execEndProgram (c : Nat) (s : State) : Out :=
  tileCmd s c .fin fun k t =>
    if s.settled c k then some (s.coreDone c (k.consume t) k.run.endStatus.code k.run.pc) else none

/-- Work that never retires by itself: a held tile of an incomplete group, or a drain stopped by uncorrectable data
(R91, R180, R336). -/
def Flight.parked (k : Core) (f : Flight) : Bool :=
  match f.work with
  | .drain d => d.stuck || (decide (d.ph = .held) && !(k.grp ((d.plan k).bankAt d.pos)).derived
      && !k.derivable ((d.plan k).bankAt d.pos))
  | _ => false

/-- No started instruction that will retire is left: the boundary of R208 and the end of R194. -/
def Core.quiet (k : Core) : Bool := k.flight.all (Flight.parked k) && k.plain.fills.all (fun f => f.flight.isNone)

/-- The program of a core on which an ending is set ends once its started instructions have retired. -/
def State.endProgram (s : State) (c : Nat) (k : Core) : State :=
  match k.run.ending with
  | some (st, idx) => if k.quiet && decide (k.run.state = .running) then s.coreDone c k st.toNat idx else s
  | none => s

/-- PROGRAM_ENDING. -/
def execProgramEnding (c : Nat) (s : State) : Out := coreCmd s c (s.endProgram c)

end Sys2Proof.Machine
end

