-- ==== Sys2Proof/Machine/Packet.lean ====
section
/-! DEFINITION. Packets at the command processors: dispatch, the checks of R248, the order of execution, parking, and replies
(R12, R18, R22, R235, R236, R241 to R249, R251 to R254, R260, R261, R264, R268, R275, R276, R282, R284, R291, R292, R366). -/

namespace Sys2Proof.Machine

open Host

/-! ### Commands and their words (R252, R253) -/

/-- Least and greatest length of a listed opcode. -/
def cmdLen : Nat → Option (Nat × Nat)
  | 0x01 | 0x02 | 0x50 | 0x71 | 0x7F => some (1, 1)
  | 0x10 | 0x11 | 0x40 | 0x41 | 0x42 | 0x52 | 0x53 => some (2, 2)
  | 0x12 | 0x13 | 0x20 | 0x51 | 0x60 => some (3, 3)
  | 0x21 => some (2, 7)
  | 0x22 => some (4, 9)
  | 0x30 | 0x31 => some (4, 4)
  | 0x70 => some (2, 32)
  | _ => none

/-- Opcodes that define the opt flag (R242). -/
def usesOpt (op : Nat) : Bool := [0x21, 0x22, 0x51, 0x52].contains op

/-- Commands whose word 1 is a core mask. -/
def hasCores (op : Nat) : Bool := [0x10, 0x11, 0x12, 0x13, 0x20, 0x21, 0x22, 0x31, 0x42, 0x51, 0x53, 0x60].contains op

/-- Core commands (R246). -/
def coreOrdered (op : Nat) : Bool := [0x10, 0x11, 0x12, 0x13, 0x20, 0x21, 0x22, 0x7F].contains op

/-- Tenant-state commands (R277). -/
def tenantState (op : Nat) : Bool := [0x10, 0x11, 0x40, 0x41, 0x7F, 0x52].contains op

/-- Defined bits of op_hdr. -/
def opHdrBits : Nat → Nat
  | 0x21 | 0x22 => 0x7F
  | 0x30 => 0xFFF0
  | 0x42 => 0x1F
  | 0x50 => 1
  | 0x70 => 0xFFFF
  | _ => 0

/-- Defined bits of word w of a command, w at least 1. -/
def wordBits (op w : Nat) : Nat :=
  let all := 2 ^ 64 - 1
  if op = 0x70 then all
  else if op = 0x30 ∧ (w = 1 ∨ w = 2) then all
  else if op = 0x30 then bits 63 40 ||| bits 39 24
  else if w = 1 then (if op = 0x52 then bits 47 0 else bits 31 0)
  else if op = 0x21 then all
  else if op = 0x60 then all
  else if w = 2 then bits 47 0
  else if op = 0x22 ∧ w = 3 then bits 31 0
  else if op = 0x31 then bits 63 48 ||| bits 42 40 ||| bits 26 16 ||| bits 11 0
  else all

/-- The lowest bit of the run of undefined bits, from bit lo on, that holds the lowest undefined bit set. -/
def lowestBad (w : Word) (defined lo hi : Nat) : Option Nat :=
  ((List.range (hi + 1 - lo)).map (· + lo)).find? (fun i => bitOf w i && !defined.testBit i) |>.map fun b =>
    (List.range (b - lo)).foldl (fun b' _ => if lo < b' && !defined.testBit (b' - 1) then b' - 1 else b') b

/-- A failed check: status, dkind and detail of its reply. -/
structure Bad where
  status : Status
  dkind : Nat
  detail : Nat
  deriving DecidableEq, Repr, Inhabited

/-- Detail of dkind 0x1: word index and lowest bit of the field (R243). -/
def fieldDetail (w b : Nat) : Nat := w % 32 * 2 ^ 27 + b % 64 * 2 ^ 21

def badField (st : Status) (w b : Nat) : Bad := ⟨st, 1, fieldDetail w b⟩

/-- First of several checks that fails. -/
def firstOf : List (Option Bad) → Option Bad
  | [] => none
  | some b :: _ => some b
  | none :: t => firstOf t

def failIf (c : Bool) (b : Bad) : Option Bad := if c then some b else none

/-! ### Fields of single commands -/

namespace Packet
variable (p : Packet)

/-- The words of a MOVE laid out as those of an XFER (R205, R254). -/
def moveTI : TI := ⟨p.hdr, p.arg 1, p.arg 2, p.arg 3 ||| (BitVec.ofNat 64 (fld p.hdr 7 4) <<< 20)⟩

/-- Core of a store or Ford operand of MOVE. -/
def moveCores : List Nat :=
  let t := p.moveTI
  (if t.xSrcKind = 1 then [t.xSrc / 2 ^ 40 % 32] else []) ++ (if t.xDstKind = 1 ∨ t.xDstKind = 2 then [t.xDst / 2 ^ 40 % 32] else [])

/-- Cores a packet names. RESET_TENANT names the tenant's cores. -/
def named (s : State) : List Nat :=
  if hasCores p.opcode then bitsBelow 32 p.coresMask
  else if p.opcode = 0x30 then p.moveCores
  else if p.opcode = 0x7F then (s.cp p.half).ts.coresOf p.tenant
  else []

/-- A MOVE moves no byte. -/
def moveVoid : Bool := p.moveTI.rows == 0 || p.moveTI.rowBytes == 0

def fillCls : Nat := fld (p.arg 3) 42 40
def fillFirst : Nat := fld (p.arg 3) 26 16
def fillCount : Nat := fld (p.arg 3) 11 0
def fillImage : Nat := fld (p.arg 3) 63 48

/-- Value words of the policy field a WRITE_POLICY names. -/
def polIdx : Nat := p.opHdr
end Packet

/-- Bytes of the context records of a list of cores (R271). -/
def ctxSize (c : Nat) : Nat := if isCol c then 0x191D000 else 0x427000

/-- Place of core c's record in the eviction area of tenant u (R267). -/
def State.evictAddr (s : State) (u c : Nat) : Nat :=
  s.tenEvGran u * 4096
    + if isCol c then c / 2 * 0x191D000 else s.cfg.colCores * 0x191D000 + (c - 1) / 2 * 0x427000

def ctxBytes (cs : List Nat) : Nat := cs.foldl (fun n c => n + ctxSize c) 0

/-- Fabric ranges that step 4 judges: packet word of the address, address, bytes, and whether it is written (R236, R264). The
image of a LOAD_PROGRAM is judged by its 64-byte header and a bucket table by its first word; what these describe is judged
where it is read (log entry 17). A core that is not built has no record here: step 5 refuses it (R18, R248). -/
def Packet.ranges (s : State) (p : Packet) : List (Nat × Nat × Nat × Bool) :=
  let cs := (p.named s).filter fun c => decide (c < s.cfg.nCores)
  let a := fld (p.arg 2) 47 0
  let t := p.moveTI
  match p.opcode with
  | 0x12 => [(2, a, ctxBytes cs, true)]
  | 0x13 => [(2, a, ctxBytes cs, false)]
  | 0x20 => if cs.isEmpty then [] else [(2, a, 64, false)]
  | 0x22 => if cs.isEmpty || fld (p.arg 3) 31 0 == 0 then [] else [(2, a, 8, false)]
  | 0x30 =>
    if p.moveVoid then []
    else (if t.xSrcKind = 0 then [(1, t.xSrc, (t.rows - 1) * t.xSrcPitch + t.rowBytes, false)] else [])
      ++ (if t.xDstKind = 0 then [(2, t.xDst, (t.rows - 1) * t.xDstPitch + t.rowBytes, true)] else [])
  | 0x31 => if cs.isEmpty then [] else [(2, a, p.fillCount * pageBytes p.fillCls, false)]
  | 0x51 => [(2, a, 256 * cs.length, true)]
  | 0x52 => [(1, fld (p.arg 1) 47 0, 64 + 32 * (if s.aon.sealed then ((s.cp p.half).ts.coresOf p.tenant).length else 0), true)]
  | _ => []

/-! ### The checks of R248 -/

/-- Step 1. -/
def Packet.headerBad (p : Packet) : Option Bad :=
  let w := p.hdr
  match cmdLen p.opcode with
  | none => some (badField .malformed 0 56)
  | some (lo, hi) =>
    firstOf [
      failIf (decide (p.length < lo) || decide (hi < p.length)) (badField .malformed 0 48),
      failIf (bitOf w 40) (badField .malformed 0 40),
      failIf (fld w 23 19 != 0) (badField .malformed 0 19),
      failIf (p.opt && !usesOpt p.opcode) (badField .malformed 0 18),
      (lowestBad w (opHdrBits p.opcode) 0 15).map (badField .malformed 0),
      if p.opcode = 0x70 then
        match policySlot p.polIdx with
        | none => some (badField .malformed 0 0)
        | some (_, n) => failIf (p.length != n + 1) (badField .malformed 0 48)
      else none]

/-- Step 3 (R248, R366). -/
def Packet.phaseBad (s : State) (p : Packet) : Option Bad :=
  if s.aon.sealed then failIf (p.opcode == 0x70 || p.opcode == 0x71) ⟨.sealed, 0, 0⟩
  else failIf (p.port != s.aon.bootPort.toNat || !([0x01, 0x02, 0x50, 0x52, 0x53, 0x70, 0x71].contains p.opcode)) ⟨.notPermitted, 0, 0⟩

/-- Cores of a mask that a predicate holds for, as the detail of dkind 0x4. -/
def coreMaskOf (l : List Nat) (f : Nat → Bool) : Nat := maskOf (l.filter f)

/-- Cores of one kind bound to the tenants that the owner of tenant t owns, recovery bindings not counted (R264, R343). -/
def State.ownerCores (s : State) (ts : TState) (t : Nat) (col : Bool) : List Nat :=
  (List.range ts.bind.length).filter fun c =>
    isCol c == col && !ts.recov.contains c &&
      ((s.bindIn ts c).map fun u => s.tenOwner u == s.tenOwner t).getD false

/-- The policy check of BIND (R264): the offending cores. -/
def Packet.bindBad (s : State) (p : Packet) : Nat :=
  let ts := (s.cp p.half).ts
  let t := p.tenant
  let cs := (p.named s).filter fun c => decide (c < s.cfg.nCores)
  let wrong := coreMaskOf cs fun c =>
    (s.polReserve).testBit c
      || (match s.bindIn ts c with | none => false | some u => u != t && !(s.hostRebind p.port).testBit u)
  let after := fun col => (s.ownerCores ts t col ++ cs.filter fun c => isCol c == col).dedup
  let fresh := fun col => coreMaskOf cs fun c => isCol c == col && decide (s.bindIn ts c ≠ some t)
  let o := s.tenOwner t
  if wrong ≠ 0 then wrong
  else (if s.hostMaxCol o < (after true).length then fresh true else 0)
    ||| (if s.hostMaxPlain o < (after false).length then fresh false else 0)

/-- One fabric range of step 4: refused aliases, windows, and before SEAL, when no tenant has a window, the backed range (R248,
R289, R291, R292, R366). An alias that is malformed passes to step 6. -/
def Packet.rangeBad (s : State) (p : Packet) (r : Nat × Nat × Nat × Bool) : Option Bad :=
  let b := badField .notPermitted r.1 0
  let t := p.tenant
  let ten := ((s.cp p.half).ts.ten t)
  if r.2.2.1 = 0 ∨ aliasBad r.2.1 then none
  else if !s.aon.sealed then
    failIf ((r.2.1.testBit 47 && r.2.1.testBit 46) || !s.backed (if r.2.1.testBit 47 then r.2.1 % 2 ^ 41 else r.2.1) r.2.2.1) b
  else
    match s.translate t ten.live 0 r.2.1 r.2.2.1 with
    | none => some b
    | some a => failIf ((r.2.2.2 && aliasLive r.2.1 && ten.stepOpen) || !s.inWindow t a r.2.2.1) b

/-- Step 4. -/
def Packet.policyBad (s : State) (p : Packet) : Option Bad :=
  let op := p.opcode
  let ranges := firstOf ((p.ranges s).map (p.rangeBad s))
  if !s.aon.sealed then ranges
  else if !s.hostExists p.port then some ⟨.notPermitted, 0, 0⟩
  else if op = 0x01 ∨ op = 0x50 then none
  else if !(s.hostTenants p.port).testBit p.tenant then some (badField .notPermitted 0 44)
  else
    let ts := (s.cp p.half).ts
    let unbound := coreMaskOf (p.named s) fun c => decide (c < s.cfg.nCores) && decide (s.bindIn ts c ≠ some p.tenant)
    firstOf [
      if op = 0x10 then failIf (p.bindBad s != 0) ⟨.notPermitted, 4, p.bindBad s⟩
      else if op = 0x7F then failIf (!(s.hostRebind p.port).testBit p.tenant) ⟨.notPermitted, 0, 0⟩
      else if op = 0x53 then failIf (!s.hostSurvey p.port) ⟨.notPermitted, 0, 0⟩
      else failIf (unbound != 0) ⟨.notPermitted, 4, unbound⟩,
      ranges]

/-- Step 5 (R4, R18, R254, R261). -/
def Packet.presenceBad (s : State) (p : Packet) : Option Bad :=
  let absent := coreMaskOf (p.named s) fun c => decide (s.cfg.nCores ≤ c)
  let noEast := !s.cfg.hasEast
  let fmt := fld p.hdr 7 4
  firstOf [
    failIf (absent != 0) ⟨.notPresent, 4, absent⟩,
    failIf (p.opcode == 0x60 && !s.cfg.caps1.toNat.testBit 3) ⟨.notPresent, 5, 3⟩,
    failIf (p.opcode == 0x30 && fld p.hdr 11 10 != 0 && (fmt == 1 || fmt == 2) && !s.cfg.caps1.toNat.testBit 0)
      ⟨.notPresent, 5, 0⟩,
    failIf (p.opcode == 0x30 && fld p.hdr 11 10 != 0 && fmt == 6 && !s.cfg.caps1.toNat.testBit 1) ⟨.notPresent, 5, 1⟩,
    failIf (p.opcode == 0x70 && p.polIdx == 0 && fld (p.arg 1) 31 0 / 2 ^ s.cfg.nCores != 0) (badField .notPresent 1 0),
    failIf (p.opcode == 0x70 && p.polIdx == 0 && bitOf (p.arg 1) 32 && noEast) (badField .notPresent 1 32),
    failIf (p.opcode == 0x70 && decide (0x100 ≤ p.polIdx ∧ p.polIdx < 0x108) && bitOf (p.arg 1) 62 && noEast)
      (badField .notPresent 1 62)]

/-- An address field: its alias form and its alignment (R253, R291). -/
def addrBad (w : Nat) (a align : Nat) : Option Bad := failIf (aliasBad a || a % align != 0) (badField .malformed w 0)

/-- Words 1 and 2 of a MOVE by kind (R198, R254). -/
def placeBad (w kind a : Nat) : Option Bad :=
  failIf (match kind with
    | 0 => aliasBad a
    | 1 => decide (2 ^ 45 ≤ a) || a / 2 ^ 32 % 256 != 0
    | _ => decide (2 ^ 45 ≤ a) || a / 2 ^ 38 % 4 != 0) (badField .malformed w 0)

/-- The skew fields of a MOVE, a complex image as at XFER, and the extents of its stores (R136, R205, R214, R219, R254). -/
def Packet.moveBad (p : Packet) : List (Option Bad) :=
  let t := p.moveTI
  let f := (Fmt.ofCode t.skewFmt).getD .df8
  let lim := lineElems t.skewWide
  let w := f.bytes * skewParts t.skewWide f t.xDstPitch
  let dcol := isCol (t.xDst / 2 ^ 40 % 32)
  let span := fun pitch => (t.rows - 1) * pitch + t.rowBytes
  let past := fun a pitch => !p.moveVoid && decide (storeSize (isCol (a / 2 ^ 40 % 32)) < a % 2 ^ 32 + span pitch)
  [failIf (decide (1 < t.xSrcKind)) (badField .malformed 0 14),
   failIf (decide (2 < t.xDstKind)) (badField .malformed 0 12),
   failIf (t.skew == 3 || (t.skew != 0 && (t.xDstKind == 0 || !dcol))) (badField .malformed 0 10),
   failIf (if t.skew = 0 then t.skewFmt != 0 else !skewFmtOk t.skewWide t.skewFmt) (badField .malformed 0 4),
   placeBad 1 t.xSrcKind t.xSrc,
   failIf (t.xSrcKind == 1 && past t.xSrc t.xSrcPitch) (badField .malformed 1 0),
   placeBad 2 t.xDstKind t.xDst,
   failIf (t.skew == 0 && t.xDstKind == 1 && past t.xDst t.xDstPitch) (badField .malformed 2 0),
   failIf (t.skew != 0 && t.xDstPitch != lim * f.bytes && t.xDstPitch != 2 * (lim * f.bytes)) (badField .malformed 2 48),
   failIf (t.skew == 1 && decide (lim < t.rows)) (badField .malformed 3 24),
   failIf (t.skew != 0 && (t.rowBytes % w != 0 || (t.skew == 2 && decide (lim < t.rowBytes / w))))
     (badField .malformed 3 40)]

/-- The value words of a policy field (R260, R261). -/
def Packet.policyWordBad (s : State) (p : Packet) : List (Option Bad) :=
  let w := p.arg 1
  let m := fun (i : Nat) (v : Word) (mask : Nat) => (lowestBad v mask 0 63).map (badField .malformed i)
  let i := p.polIdx
  if i = 0 then [m 1 w (bits 32 0)]
  else if i < 0x200 then
    [m 1 w (bits 63 61 ||| bits 47 32 ||| bits 15 0), m 2 (p.arg 2) (bits 63 50 ||| bits 28 0),
     failIf (decide (s.cfg.colCores < fld (p.arg 2) 63 59)) (badField .malformed 2 59),
     failIf (decide (s.cfg.plainCores < fld (p.arg 2) 58 54)) (badField .malformed 2 54)]
  else if i < 0x300 then
    let n := fld w 58 56
    [m 1 w (bits 63 56 ||| bits 28 0), failIf (decide (4 < n)) (badField .malformed 1 56),
     failIf (!bitOf w 62 && fld w 28 0 != 0) (badField .malformed 1 0)]
    ++ (List.range 4).flatMap fun k =>
      let v := p.arg (2 + k)
      [m (2 + k) v (bits 60 32 ||| bits 28 0),
       failIf (decide (n ≤ k) && v != 0) (badField .malformed (2 + k) (if fld v 28 0 = 0 then 32 else 0)),
       failIf (decide (k < n) && (fld v 60 32 == 0 || decide (0x1E000000 < fld v 60 32))) (badField .malformed (2 + k) 32)]
  else [m 1 w (bits 63 63 ||| bits 59 56 ||| bits 47 32 ||| bits 15 0)]

/-- Pages of a FILL_PAGES beyond the plane or out of line with their class, and Col cores in its mask (R253, R254). -/
def Packet.fillBad (p : Packet) (s : State) : List (Option Bad) :=
  let step := if p.fillCls ≤ 1 then 1 else if p.fillCls = 2 then 2 else 4
  let last := p.fillFirst + step * (p.fillCount - 1)
  [failIf ((p.named s).any isCol) (badField .malformed 1 0),
   addrBad 2 (fld (p.arg 2) 47 0) 64,
   failIf (decide (3 < p.fillCls)) (badField .malformed 3 40),
   failIf (decide (p.fillCount ≠ 0) && !pageOk p.fillCls p.fillFirst) (badField .malformed 3 16),
   failIf (decide (p.fillCount ≠ 0) && !pageOk p.fillCls last) (badField .malformed 3 0)]

/-- Ranges and codes of step 6 in ascending word order. -/
def Packet.fieldsBad (s : State) (p : Packet) : List (Option Bad) :=
  let a := fld (p.arg 2) 47 0
  match p.opcode with
  | 0x12 | 0x13 => [addrBad 2 a 4096]
  | 0x20 => [addrBad 2 a 64]
  | 0x21 => [failIf (!bitOf p.hdr 6 && fld p.hdr 5 0 != 0) (badField .malformed 0 0)]
  | 0x22 => [failIf (!bitOf p.hdr 6 && fld p.hdr 5 0 != 0) (badField .malformed 0 0), addrBad 2 a 64]
  | 0x30 => p.moveBad
  | 0x31 => p.fillBad s
  | 0x51 => [addrBad 2 a 64]
  | 0x52 => [addrBad 1 (fld (p.arg 1) 47 0) 64]
  | 0x70 => p.policyWordBad s
  | _ => []

/-- Reserved bits of the parameter words. -/
def Packet.reservedBad (p : Packet) : List (Option Bad) :=
  (List.range p.words.length).map fun w =>
    if w = 0 then none else (lowestBad (p.arg w) (wordBits p.opcode w) 0 63).map (badField .malformed w)

/-- The word that a failed field check names. -/
def Bad.wordIdx (b : Bad) : Nat := b.detail / 2 ^ 27

/-- Step 6: the failure in the lowest word; in one word reserved bits come first. -/
def Packet.wordsBad (s : State) (p : Packet) : Option Bad :=
  let all := ((p.reservedBad) ++ p.fieldsBad s).filterMap fun x => x
  firstOf ((List.range 32).map fun w => all.find? fun b => b.wordIdx == w)

/-- Steps 1 and 3 to 6 of R248: the first check that fails. Step 2 lies between the first two and never fails: it parks (R282),
and REDIRECT is written by R281 and R284. -/
def State.judge (s : State) (p : Packet) : Option Bad :=
  firstOf [p.headerBad, p.phaseBad s, p.policyBad s, p.presenceBad s, p.wordsBad s]

/-- Fenced cores that a packet names (R342). -/
def State.fencedOf (s : State) (p : Packet) : Nat := coreMaskOf (p.named s) fun c => (s.core c).rep.coreFenced

/-- Withdrawn ports that the eviction saves of a BIND touch (R235, R267). -/
def State.evictLost (s : State) (p : Packet) : Nat :=
  if p.opcode = 0x10 then
    ((p.named s).map fun c => match s.bindIn (s.cp p.half).ts c with
      | some u => if u ≠ p.tenant ∧ s.tenEvict u then s.lostMask (s.evictAddr u c) (ctxSize c) else 0
      | none => 0).foldl (· ||| ·) 0
  else 0

/-- The live half under which a packet translates: the one that held when it started (R290). -/
def State.liveOf (s : State) (p : Packet) : Bool :=
  if p.st = .acting ∨ p.st = .running then p.live else ((s.cp p.half).ts.ten p.tenant).live

/-- Withdrawn ports that the ranges of a packet touch (R235). -/
def State.lostOf (s : State) (p : Packet) : Nat :=
  ((p.ranges s).map fun r => match s.translate p.tenant (s.liveOf p) 0 r.2.1 r.2.2.1 with
    | some a => if r.2.2.1 = 0 then 0 else s.lostMask a r.2.2.1
    | none => 0).foldl (· ||| ·) (s.evictLost p)

/-- The part of step 7 common to all commands: fenced cores, unbacked granules, and a line of its own that the Valley network has lost
(R337). RELEASE and READ_TIMERS take fenced cores (R342). -/
def State.fencedBad (s : State) (p : Packet) : Option Bad :=
  firstOf [
    failIf p.lost ⟨.faultFenced, 0, 0⟩,
    failIf (s.fencedOf p != 0 && p.opcode != 0x11 && p.opcode != 0x51 && p.opcode != 0x7F)
      ⟨.faultFenced, 4, s.fencedOf p⟩,
    failIf (s.lostOf p != 0) ⟨.faultFenced, 7, s.lostOf p⟩]

/-! ### Order of execution (R246) -/

/-- The place of a packet in the order of core commands at half h: its dispatch there, or the arrival of its order. -/
def Packet.place (p : Packet) (h : Half) : Option Nat := if p.half = h then some p.order else p.order2

/-- q comes before p at core c. Orders that have not arrived arrive in the order in which they were sent (R246, R276). -/
def State.before (s : State) (q p : Packet) (c : Nat) : Bool :=
  match q.place (s.servedBy c), p.place (s.servedBy c) with
  | some a, some b => decide (a < b)
  | some _, none => true
  | none, some _ => false
  | none, none => decide (q.order < p.order)

/-- A packet that has been dispatched and has not completed. -/
def Packet.dispatched (p : Packet) : Bool := decide (p.st ≠ .waiting) && decide (p.st ≠ .done)

/-- A packet whose change of tenant state the lead has made already. -/
def Packet.mirroring (q : Packet) : Bool := match q.st with | .mirror _ => true | _ => false

/-- An earlier core command on core c that p does not wait for: the runs that RESET_TENANT discards, and the commands of the
tenant from which BIND takes the core, but for one that has acted and only waits for the mirror (R254, R268, log entry 11). -/
def State.discards (s : State) (p q : Packet) (c : Nat) : Bool :=
  (p.opcode == 0x7F && q.tenant == p.tenant)
    || (p.opcode == 0x10 && q.tenant != p.tenant && !q.mirroring && decide (s.bindIn (s.cp p.half).ts c = some q.tenant))

/-- Core order and the boundary commands. -/
def State.coreHeld (s : State) (p : Packet) : Bool :=
  s.blk.pkts.any fun q =>
    decide (q.id ≠ p.id) && q.dispatched && coreOrdered q.opcode
      && (coreOrdered p.opcode
          || ((p.opcode == 0x60 || p.opcode == 0x31) && q.opcode != 0x21 && q.opcode != 0x22))
      && (p.named s).any fun c => (q.named s).contains c && s.before q p c && !s.discards p q c

/-- The wait flag and FENCE, within one port. -/
def State.portHeld (s : State) (p : Packet) : Bool :=
  s.blk.pkts.any fun q =>
    q.port == p.port && decide (q.id < p.id) && decide (q.st ≠ .done)
      && (p.waitFlag || p.opcode == 0x02 || q.opcode == 0x02)

/-- A merge of a tenant's drains or a poison update is on its way over the Saddle link, or stands in a pending log (R282). -/
def State.unmerged (s : State) (t : Nat) : Bool :=
  s.blk.west.log.any (·.tenant == t) || s.blk.east.log.any (·.tenant == t)
    || s.blk.saddle.any fun m => match m.2 with | .merge e => e.tenant == t | _ => false

/-- STEP_COMMIT waits for every earlier packet of its tenant, and for what either half has not merged (R283, R295). -/
def State.stepHeld (s : State) (p : Packet) : Bool :=
  p.opcode == 0x41 && (s.unmerged p.tenant || s.blk.pkts.any fun q => decide (q.id ≠ p.id) && q.tenant == p.tenant
    && decide (q.id < p.id) && decide (q.st ≠ .done))

/-- A survey is in progress over a core of a BIND or RELEASE, or any survey for a MARGIN_SURVEY (R328). -/
def State.surveyHeld (s : State) (p : Packet) : Bool :=
  match s.blk.survey with
  | none => false
  | some v => (p.opcode == 0x53 && decide (v.pk ≠ some p.id))
      || ((p.opcode == 0x10 || p.opcode == 0x11) && (p.named s).any v.doms.contains)

/-- What a command processor may not execute in its role while the other side is silent and not OFF, or while its copy of the
tenant state is not current (R282, R284). -/
def State.leadHeld (s : State) (p : Packet) : Bool :=
  if !s.aon.sealed || !s.cfg.hasEast then false
  else
    let h := p.half
    let k := s.cp h
    if !k.current then !([0x01, 0x02, 0x50].contains p.opcode)
    else if k.silent && s.cpUp h.other then
      (p.named s).any (fun c => decide (c < s.cfg.nCores) && decide (s.servedBy c = h.other))
        || (tenantState p.opcode &&
            (decide (s.role h = .claiming) || (k.ts.coresOf p.tenant).any fun c => decide (s.servedBy c = h.other)))
    else false

/-- Whether a dispatched packet stays parked. -/
def State.holds (s : State) (p : Packet) : Bool :=
  s.portHeld p || s.coreHeld p || s.stepHeld p || s.surveyHeld p || s.leadHeld p

/-! ### Dispatch and parking (R22, R246, R268) -/

/-- A command processor works: its domain is ON, it is out of reset, and dispatch is not held (R318, R365). -/
def State.cpRuns (s : State) (h : Half) : Bool :=
  s.portsOpen && decide (s.aon.sleep = .awake) && s.cpUp h

/-- A packet acts on cores of the other command processor, to which no order of it has been sent: what any command does on cores but
a MOVE, whose bytes its own data-move engine moves (R254, R275, R276). -/
def State.needsOrder (s : State) (p : Packet) : Bool :=
  !p.ordered && p.opcode != 0x30 && (p.named s).any fun c => decide (c < s.cfg.nCores) && decide (s.servedBy c ≠ p.half)

/-- Send the order of a packet where it needs one. -/
def State.sendOrder (s : State) (p : Packet) : State :=
  if s.needsOrder p then (s.setPkt { p with ordered := true }).post p.half.other (.order p.id) else s.setPkt p

/-- A dispatched or unparked packet: its checks, then execution or parking. A packet that its command processor may not execute
now is parked after the first check (R248, R282). -/
def State.enqueue (s : State) (p : Packet) : State :=
  if p.headerBad.isNone && s.leadHeld p then s.setPkt { p with st := .parked }
  else match s.judge p with
    | some b => s.complete p b.status b.dkind b.detail 0
    | none => s.sendOrder { p with st := if s.holds p then .parked else .ready }

/-- The next packet of half h in round-robin order of ports. -/
def State.nextPacket (s : State) (h : Half) : Option Packet :=
  ((List.range 8).map fun i => ((s.cp h).rr + i) % 8).findSome? fun q =>
    if (s.hp.getD q .reset).cpHalf = h then s.blk.pkts.find? fun p => p.port == q && decide (p.st = .waiting) else none

def State.dispatch (s : State) (h : Half) : State :=
  if s.cpRuns h then
    match s.nextPacket h with
    | none => s
    | some p =>
      let s := s.modCp h fun k => { k with rr := (p.port + 1) % 8 }
      let p := { p with half := h, order := s.blk.nextOrd, st := .parked }
      let s := ({ s with blk := { s.blk with nextOrd := s.blk.nextOrd + 1 } }).setPkt p
      s.enqueue p
  else s

/-- PACKET_DISPATCH. -/
def execPacketDispatch (h : Half) (s : State) : Out := halfCmd s h (s.dispatch h)

def State.unpark (s : State) (p : Packet) : State :=
  if p.st = .parked ∧ s.cpRuns p.half ∧ !s.holds p then s.enqueue p else s

/-- PACKET_UNPARK. -/
def execPacketUnpark (pk : Nat) (s : State) : Out :=
  .next (match s.pkt? pk with | some p => s.unpark p | none => s)

/-! ### Replies (R244, R245) -/

/-- Index arithmetic of a ring. -/
def HostPort.full (h : HostPort) : Bool := (h.head.toNat + 1) % ringEntries h.size.toNat == h.tail.toNat

/-- Write the oldest reply of a port into its ring, or hold it. The reply leaves by a memory port; toward a withdrawn one nothing
is issued, and the reply waits (R244, R356, log entry 8). -/
def State.replyWrite (s : State) (p : Nat) (h : HostPort) : State :=
  match s.blk.replies.find? (·.port == p) with
  | none => s
  | some r =>
    if !s.portsOpen then s
    else if !h.en || h.full then s.raiseIrq p 2
    else
      let a := 4096 * h.base.toNat + 16 * h.head.toNat
      if s.lostRange a 16 then s
      else
      let s := s.wrFabric (wordBytes a [r.w0, r.w1])
      let s := { s with blk := { s.blk with replies := s.blk.replies.eraseP (·.port == p) } }
      let s := s.modHp p fun h => { h with head := BitVec.ofNat 16 ((h.head.toNat + 1) % ringEntries h.size.toNat) }
      (s.raiseIrq p 0).creditBack p

/-- REPLY_WRITE. -/
def execReplyWrite (p : Nat) (s : State) : Out := portCmd s p fun h => s.replyWrite p h

/-! ### Executing a packet -/

/-- Fail a packet with a check's result. -/
def State.reject (s : State) (p : Packet) (b : Bad) : State := s.complete p b.status b.dkind b.detail 0

/-- A domain that is ON or on its way there. -/
def State.comesOn (s : State) (d : Nat) : Bool :=
  match s.dom d with
  | .still .on | .changing .on _ => true
  | _ => false

/-- The unbound cores that a BIND named, which it has powered up, or that a RELEASE that has been ended has unbound, go OFF again: an
unbound core is OFF after SEAL (R311, R342). R311 lists no such transition (DESIGN CHOICE, log entry 11). -/
def State.unpower (s : State) (p : Packet) : State :=
  if (p.opcode = 0x10 ∨ p.opcode = 0x11) ∧ s.aon.sealed then
    (p.named s).foldl (fun s c =>
      if c < s.cfg.nCores ∧ s.bindIn s.auth c = none ∧ !(s.blk.recover.any (·.1 == c)) ∧ s.comesOn c then s.startDom c .off 1
      else s) s
  else s

/-- Fail a packet that was to act on cores. -/
def State.failOnCores (s : State) (p : Packet) (b : Bad) : State := (s.reject p b).unpower p

/-- The command row of opcode op on packet pk: a ready packet is judged once more in the beat it starts (R268, R342), after its order
has been sent where a core has passed to the other command processor meanwhile (R275); a packet that has started goes on. -/
def State.command (s : State) (pk op : Nat) (go : Packet → State) : State :=
  match s.pkt? pk with
  | none => s
  | some p =>
    if p.opcode = op ∧ s.cpRuns p.half then
      if p.st = .acting ∨ p.st = .running then go p
      else if p.st = .ready then
        if s.holds p then s
        else if s.needsOrder p then s.sendOrder p
        else match firstOf [s.judge p, s.fencedBad p] with
          | some b => s.reject p b
          | none => go { p with st := .acting, live := ((s.cp p.half).ts.ten p.tenant).live, todo := p.named s }
      else s
    else s

/-- Address of a range that a packet names; the window checks have passed (R289, R290). -/
def State.packetAddr (s : State) (p : Packet) (a len : Nat) : Nat := (s.translate p.tenant p.live 0 a len).getD a

/-- Act on all named cores in one step, once each is ready, the order has reached the other command processor, and no earlier
core command is left on them (R246, R247, R268, R276); until then each core is prepared, and a core fenced meanwhile fails the
packet, whose other cores then go on (R247, R342). -/
def State.drive (s : State) (p : Packet) (prep : State → Nat → State) (ready : State → Nat → Bool)
    (act : State → Packet → State) : State :=
  match s.fencedBad p with
  | some b => s.failOnCores p b
  | none =>
    let s := s.setPkt p
    if (p.ordered && p.order2.isNone) || s.coreHeld p || s.surveyHeld p then s
    else if p.todo.all (ready s) then act s { p with todo := [], acted := p.todo, st := .running }
    else p.todo.foldl prep s

/-- Complete a packet that has acted: the other command processor first reports its part (R276). -/
def State.settle (s : State) (p : Packet) (fin : State → Packet → State) : State :=
  if p.ordered && !p.orderSent then (s.setPkt { p with orderSent := true }).post p.half (.orderDone p.id)
  else if p.ordered && !p.orderDone then s.setPkt p
  else fin s p

/-- The two phases of a command on cores. -/
def State.onCores (s : State) (p : Packet) (prep : State → Nat → State) (ready : State → Nat → Bool)
    (act : State → Packet → State) (fin : State → Packet → State) : State :=
  if p.st = .running then s.settle p fin else s.drive p prep ready act

/-- Complete with OK and the mask of cores acted on. -/
def State.doneMask (s : State) (p : Packet) : State := s.complete p .ok 0 0 (word (maskOf p.acted))

end Sys2Proof.Machine
end

