-- ==== Sys2Proof/Machine/Context.lean ====
section
/-! DEFINITION. Core boundaries, the resets of BIND, discarded guest vectors, and context records (R61, R85, R91, R100, R117,
R118, R121, R180, R197, R208, R209, R213, R267, R271, R272). -/

namespace Sys2Proof.Machine

open Host

/-! ### Boundaries (R91, R180, R208, R326, R334) -/

/-- A core stands at a boundary at which a command may act: started instructions have retired, no replay is due, and a tap
change or a repair that waits for the same boundary has acted. -/
def Core.atRest (k : Core) : Bool :=
  k.quiet && k.rep.stopped.isEmpty && k.rep.defect.isEmpty && k.rep.replaying.isEmpty && !k.rep.tapPending && k.rep.remap.isEmpty

/-! ### Resets (R61, R85, R100, R197, R213, R267, R350) -/

/-- What BIND, RELEASE and RESET_TENANT leave of a core's program: no program, tag, row set, record, timer or list. -/
def Core.cleared (k : Core) : Core :=
  { k with
    run := .reset, img := .empty, fords := [], loops := loopsIdle, phases := List.replicate 32 .zero, gen := 1
    lists := listsEmpty, slots := List.replicate 4 .reset, banks := []
    plain := { PlainSt.reset with plane := k.plain.plane, par := k.plain.par, colAcc := k.plain.colAcc
                                  treeAcc := k.plain.treeAcc, rowExc := k.plain.rowExc }
    groups := [.none, .none], area := none, flight := []
    rep := { k.rep with replays := [], stopped := [], replaying := [] } }

/-- The same with the store, the rows and the banks zeroed and the counters restarted (R267 steps 4 and 5, R350). -/
def Core.recycled (k : Core) : Core :=
  { k.cleared with
    store := [], bad := [], eccCor := 0, eccUnc := 0, planePar := 0
    plain := { PlainSt.reset with plane := k.plain.plane, par := k.plain.par } }

/-- A core whose domain has gone OFF keeps nothing (R312): what stands are its maps and fences, which the command processor and
the always-on domain hold until the next reset (R335, R342), and the model's numbering of instructions. -/
def Core.poweredOff (k : Core) : Core :=
  { Core.reset with
    rep := { Repair.reset with
      rowsEx := k.rep.rowsEx, colsEx := k.rep.colsEx, epochs := k.rep.epochs, planeSpare := k.rep.planeSpare
      lineSpare := k.rep.lineSpare, fenced := k.rep.fenced, coreFenced := k.rep.coreFenced, mapEpoch := k.rep.mapEpoch }
    nextF := k.nextF }

/-! ### Guest vectors that are discarded (R118) -/

/-- The NaN or poison code of a format (R118); an integer format has what a NaN converts to. -/
def poisonCode (f : Fmt) : Nat :=
  match f.float? with
  | some F => F.nanCode
  | none => if f = .dx16 then 0x8000 else if f = .dq4 then 0x88 else (convert f .rne true false 0 (.nan false)).1

/-- A row of 64 such codes; a byte holds two of 4 bits. -/
def poisonRow (f : Fmt) : List (Nat × Byte) :=
  (List.range (if f = .dq4 then 32 else 64)).flatMap fun j => numBytes (j * f.bytes) f.bytes (poisonCode f)

/-- Guest vectors that wait in fired guest Fords of a core. -/
def Core.waitingGuests (k : Core) : List Guest :=
  (List.range k.img.fords.length).flatMap fun n =>
    let w := (k.fordEntry n).getD (0, 0)
    match k.img.instrs.find? fun t => decide (t.op? = some .dpass) && t.share && t.guestFord == n with
    | some t =>
      if fordGuest w && decide ((k.ford n).count ≠ 0) then
        let base := fordBase w
        (List.range (if (k.ford n).fired then (k.ford n).batch.toNat else fld (k.store.word base) 6 0)).map fun j =>
          let r := Config.guestReturn (k.store.words (vecAddr base t.vecPitch j) (t.vecPitch / 8))
          ⟨j, (k.ford n).sender (vecAddr 0 t.vecPitch j), r.1, r.2.1, r.2.2.1, r.2.2.2⟩
      else []
    | none => []

/-- A flight without its guest vectors. -/
def Flight.noGuests (f : Flight) : Flight :=
  match f.work with
  | .drain d => if d.sent then f else { f with work := .drain { d with guests := [], out := { d.out with guestLog := [] } } }
  | _ => f

/-- Guest vectors not yet drained: of live row sets, of drains held or stopped at the boundary or with their program, and in guest
Fords. -/
def Core.openGuests (k : Core) : List Guest :=
  k.plain.sets.flatMap (·.guests) ++ k.flight.flatMap Flight.guests ++ k.plain.orphans ++ k.waitingGuests

/-- Discard the guest vectors of core c: each guest receives a row of NaN or poison codes, sent for no run, and invalid in its
sticky register. -/
def State.discardGuests (s : State) (c : Nat) : State :=
  let k := s.core c
  let s := k.openGuests.foldl (fun s g =>
    (s.startXfer g.tenant (.quiet c (2 ^ 32) 0) (.ford g.core g.ford g.off) (.data (poisonRow g.fmt) false 0 0 0 [])).mergeFrom
      (s.servedBy c) ⟨g.tenant, 1, 0, 0, false⟩) s
  s.modCore c fun k => { k with
    plain := { k.plain with sets := k.plain.sets.map fun x => { x with guests := [] }, orphans := [] }
    flight := k.flight.map Flight.noGuests
    fords := ((List.range k.fords.length).zip k.fords).map fun f =>
      if ((k.fordEntry f.1).map fordGuest).getD false then { f.2 with count := 0 } else f.2 }

/-! ### Writing a context record (R271) -/

/-- Write n bytes at a fabric address: the bytes given, and zero elsewhere. -/
def State.wrRange (s : State) (a n : Nat) (bs : List (Nat × Byte)) : State :=
  { s with
    mem := (s.mem.clear a n).wrAll (shift a bs)
    flagged := s.flagged.filter fun l => !(decide (a ≤ 64 * l) && decide (64 * l + 64 ≤ a + n)) }

/-- The record header. -/
def Core.ctxHeader (k : Core) (c tenant : Nat) : List Word :=
  let loops := ((List.range 4).zip k.loops).foldl (fun a l =>
    a + put (16 * l.1 + 15) (16 * l.1) ((l.2.map (·.toNat)).getD 0xFFFF)) 0
  let lists := ((List.range 5).zip k.lists).foldl (fun a l =>
    a + put (7 * l.1 + 6) (7 * l.1) (match l.2 with | some i => i | none => 64)) 0
  let count := fun b => (k.groups.getD b .none).count
  [word (put 63 56 1 + put 55 54 (if isCol c then 0 else 1) + put 53 49 c + put 47 44 tenant),
   ({ k.run with state := .saved }).word, k.gen, word loops, k.rep.engMap,
   (if isCol c then word (put 47 24 (k.rep.epochs.getD 1 0).toNat + put 23 0 (k.rep.epochs.getD 0 0).toNat) else 0),
   word (put 15 8 (count 1) + put 7 0 (count 0)), word lists]
  ++ (if k.run.state = .empty then [0, 0, 0] else (k.img.hdr ++ [0, 0, 0]).take 3)

/-- Slots in the order of the record: by logical engine, in slot order; a slot that holds no usable tile is empty (R91). -/
def Core.ctxSlots (k : Core) : List (Option Slot) :=
  let usable := fun i => if (k.slot i).st = .acc then some (k.slot i) else none
  if k.rep.fenced = 0 then (List.range 4).map usable
  else [0, 1].flatMap fun e =>
    let l := (k.slotsOf e).filterMap fun i => (usable i).filter fun x => x.eng == e
    [l[0]?, l[1]?]

/-- Bytes of a table of 32-bit codes: keys in order from lo to hi. -/
def tabBytes (t : Tab (BitVec 32)) (a : Nat) : List (Nat × Byte) := t.flatMap fun e => numBytes (a + 4 * e.1) 4 e.2.toNat

/-- Bytes of a store, but for those of guest Fords, which no save reads (R117). -/
def Core.storeBytes (k : Core) (a : Nat) : List (Nat × Byte) :=
  let gs := k.img.fords.filter fordGuest
  shift a (k.store.filter fun b => !(gs.any fun w => decide (fordBase w ≤ b.1) && decide (b.1 < fordBase w + fordSize w)))

/-- Offset of the store in a record. -/
def ctxStore (c : Nat) : Nat := if isCol c then 0x11D000 else 0x27000

/-- The bytes of a record that are not zero. -/
def Core.ctxRecord (k : Core) (c tenant : Nat) : List (Nat × Byte) :=
  let bank := ([0, 1].flatMap fun b => (List.range 256).map fun r => (b, r)).flatMap fun x =>
    let r := bankRow k.banks x.1 x.2
    ((List.range 8).zip [r.mx, r.s1, r.s2, r.alpha, r.c, r.d0, r.d1, r.d2]).flatMap fun v =>
      numBytes (0x15000 + 8192 * x.1 + 32 * x.2 + 4 * v.1) 4 v.2.toNat
  wordBytes 0 (k.ctxHeader c tenant)
  ++ wordBytes 0x1000 (k.img.instrs.flatMap fun t => [t.w0, t.w1, t.w2, t.w3])
  ++ wordBytes 0x11000 (k.img.chains.flatMap fun l => l)
  ++ wordBytes 0x14000 (k.fords.map FordSt.word)
  ++ wordBytes 0x14200 (k.img.fords.flatMap fun w => [w.1, w.2])
  ++ wordBytes 0x14600 (k.phases.map PhaseT.word)
  ++ bank
  ++ (if isCol c then
        ((List.range 4).zip k.ctxSlots).flatMap fun x => match x.2 with
          | some sl => shift (0x19000 + recStride * x.1) sl.record
          | none => []
      else
        tabBytes k.plain.colAcc 0x19000 ++ tabBytes k.plain.treeAcc 0x1A000
        ++ (k.plain.rowExc.flatMap fun e => wordBytes (0x22000 + 16 * e.1) [e.2.1, e.2.2])
        ++ (k.plain.recs.flatMap fun e => wordBytes (0x23000 + 16 * e.1) [e.2.1, e.2.2]))
  ++ k.storeBytes (ctxStore c)

/-- Write the context record of core c at a fabric address. -/
def State.saveCtx (s : State) (c tenant a : Nat) : State := s.wrRange a (ctxSize c) ((s.core c).ctxRecord c tenant)

/-- A drain whose poison has been merged. -/
def Flight.clean (f : Flight) : Flight :=
  match f.work with
  | .drain d => { f with work := .drain { d with out := { d.out with
      poison := false, guestLog := d.out.guestLog.map fun e => { e with poison := false } } } }
  | _ => f

/-- A core once its context is saved: unusable tiles are gone, what its drains have seen of poison has been merged, and the state
reads 11 (R91, R165, R254). -/
def Core.afterSave (k : Core) : Core :=
  let gone := fun (f : Flight) => match f.work with | .drain d => d.stuck | _ => false
  { k with
    slots := k.slots.map fun x => if x.st = .acc then x else .reset
    flight := (k.flight.filter fun f => !gone f).map Flight.clean
    run := { k.run with state := .saved, hold := false } }

/-! ### Reading a context record (R271, R272) -/

/-- Checks 1 to 3 of R272 on one record. -/
def State.ctxBad (s : State) (m : Mem) (a c tenant : Nat) : Option Status :=
  let w0 := m.word a
  if fld w0 63 56 ≠ 1 ∨ fld w0 55 54 ≠ (if isCol c then 0 else 1) then some .malformed
  else if fld w0 47 44 ≠ tenant then some .notPermitted
  else if isCol c then none
  else if (List.range 1024).any fun sl =>
      ([0, 8].any fun o =>
        let w := m.word (a + 0x23000 + 16 * sl + o)
        recValid w && !s.inWindow tenant (recSrc w) (pageBytes (min 3 (recClass w)))) then some .notPermitted
  else none

/-- The image that a record holds; none where its counts exceed the memories. It counts as loaded from no address, so that a
SELECT_BUCKET after the restore loads its image: R255 does not say what address a restored image has (DESIGN CHOICE, unsafe, log
entry 18). -/
def ctxImage (m : Mem) (a : Nat) : Option Image :=
  let h := m.words (a + 64) 3
  if 2048 < imgInstrs h ∨ 64 < imgChains h ∨ 64 < imgFords h then none
  else some {
    hdr := if h.all (· == 0) then [] else h
    instrs := groupInstrs (m.words (a + 0x1000) (4 * imgInstrs h))
    chains := groupChains (imgChains h) (m.words (a + 0x11000) (17 * imgChains h))
    fords := groupFords (m.words (a + 0x14200) (2 * imgFords h))
    addr := none }

def fordOf (w : Word) : FordSt := ⟨BitVec.ofNat 24 (fld w 47 24), BitVec.ofNat 16 (fld w 15 0), [], 0⟩

def phaseOf (w : Word) : PhaseT := ⟨BitVec.ofNat 8 (fld w 63 56), BitVec.ofNat 56 (fld w 55 0)⟩

/-- n codes of 32 bits from a, those that are not zero. -/
def tabFrom (m : Mem) (a n : Nat) : Tab (BitVec 32) :=
  Tab.canon 0 ((List.range n).map fun i => (i, BitVec.ofNat 32 (m.num (a + 4 * i) 4)))

def pairsFrom (m : Mem) (a n : Nat) : Tab (Word × Word) :=
  Tab.canon (0, 0) ((List.range n).map fun i => (i, m.word (a + 16 * i), m.word (a + 16 * i + 8)))

def banksFrom (m : Mem) (a : Nat) : Tab BankRow :=
  Tab.canon default (([0, 1].flatMap fun b => (List.range 256).map fun r => (b, r)).map fun x =>
    let v := fun i => BitVec.ofNat 32 (m.num (a + 8192 * x.1 + 32 * x.2 + 4 * i) 4)
    (bankKey x.1 x.2, ⟨v 0, v 1, v 2, v 3, v 4, v 5, v 6, v 7⟩))

/-- The bytes of n from a, at offsets from a. -/
def Mem.part (m : Mem) (a n : Nat) : Mem := (m.filter fun b => decide (a ≤ b.1) && decide (b.1 < a + n)).map fun b => (b.1 - a, b.2)

/-- The tile of Basin record i of a record, under the tag that its trailer names (R91). -/
def ctxSlot (m : Mem) (a i : Nat) : Option Slot :=
  let r := a + 0x19000 + recStride * i
  readRecord m r (i / 2) (fld (m.word (r + 262144)) 44 41) 0

/-- Put restored tiles into the slots: in place, or on a survivor into its two slots and the rest into their spill records
(R86, R210). -/
def Core.placeSlots (k : Core) (l : List (Option Slot)) : Core :=
  if k.rep.fenced = 0 then { k with slots := l.map fun x => x.getD .reset }
  else
    let ts := l.filterMap fun x => x
    let k := ((k.slotsOf 0).zip ts).foldl (fun k x => k.setSlot x.1 x.2) { k with slots := List.replicate 4 .reset }
    (ts.drop 2).foldl (fun k x => { k with store := writeRecord k.store (k.autoRec x.eng x.tag) x }) k

/-! ### What a record leaves to the program: row sets, held tiles and drain_seq (log entry 18) -/

/-- A walk along the program's order, which no data changes (R191): the core with its place, loops, lists, row sets, groups and
held drains, the extents of the live tags, and the OPASSes so far with the last that named each tag (R86). -/
structure Walk where
  col : Bool
  k : Core
  tags : List (Nat × Nat × Nat × Nat × AccKind)
  count : Nat
  uses : List (Nat × Nat × Nat)
  deriving DecidableEq, Repr, Inhabited

def Walk.tag (w : Walk) (e t : Nat) : Nat × Nat × AccKind :=
  ((w.tags.find? fun x => x.1 == e && x.2.1 == t).map fun x => x.2.2).getD (1, 1, .f32)

def Walk.setTag (w : Walk) (e t m n : Nat) (kind : AccKind) : Walk :=
  { w with tags := (e, t, m, n, kind) :: w.tags.filter fun x => !(x.1 == e && x.2.1 == t) }

/-- An OPASS names tag t of logical engine e. -/
def Walk.use (w : Walk) (e t : Nat) : Walk :=
  { w with uses := (e, t, w.count) :: w.uses.filter fun x => !(x.1 == e && x.2.1 == t) }

/-- A DPASS or TPASS on the way: the row set it leaves live. -/
def Walk.pass (w : Walk) (t : TI) (tree : Bool) : Walk :=
  let k := w.k
  let base := fordBase ((k.fordEntry t.waitFord).getD (0, 0))
  let b := if t.batchDyn then fld (k.store.word base) 6 0 else t.vecMax
  let void := decide (t.vecMax = 0) || decide (t.pNLim = 0) || decide (b = 0)
  let x := k.passSet t tree (if t.vecMax = 0 then 0 else b) []
  { w with k := k.setRowSet { x with ksum := x.ksum + (if void then 0 else redExt tree) } }

/-- A BDRAIN on the way: its ordinal, its place in the groups, and the drain itself while its group is open. -/
def Walk.drain (w : Walk) (t : TI) : Walk :=
  let k := w.k
  let tiles : List TileData :=
    if w.col then
      t.engines.map fun e =>
        let d := w.tag e (t.drainTag e)
        let s : Slot := { Slot.reset with eng := e, mExt := d.1, nExt := d.2.1, kind := d.2.2 }
        s.tile t
    else match k.rowSet? t.dTree t.dRow with
      | some x => [{ k.rowTile x with acc := [], exc := 0, cap := 0 }]
      | none => []
  let d : Drain := { (default : Drain) with
    ti := t, list := listWords k.img (k.lists.getD 0 none), tiles := tiles, ph := .held, seq := k.run.drainSeq % 65536
    span := t.spanOf (tilesShape tiles), writes := t.drainWrites (if w.col then 0 else 1) (listWords k.img (k.lists.getD 0 none)) (tilesShape tiles)
    reads := drainReads (listWords k.img (k.lists.getD 0 none)) (List.range (tilesShape tiles).m) (tilesShape tiles) }
  let x := d.plan k
  let hi := x.holdPos 0
  let banks := x.statBanks 0 hi
  let held := decide (hi < x.stages.length)
  let bank := x.bankAt hi
  let k := { k with run := { k.run with drainSeq := k.run.drainSeq + 1 } }
  let k := if w.col then k else k.dropRowSet t.dTree t.dRow
  -- a complete deferring group has left the area by the next boundary, with the tiles of this drain that belong to it
  let r := tiles.foldl (fun (a : Core × List Nat × Nat) _ =>
    let k := a.1.openBanks banks
    let ords := a.2.1 ++ [(k.grp bank).count]
    let k := k.countBanks banks (if held then some bank else none)
    if held && k.derivable bank then
      ({ k.setGrp bank .none with flight := k.flight.filter fun f => (Flight.heldOn bank f).isNone }, ords, ords.length)
    else (k, ords, a.2.2)) (k, [], 0)
  let k := { r.1 with banks := k.banks }
  let olds := d.readOlds k.store (tiles.foldl (fun n t => max n t.m) 0) (tiles.foldl (fun n t => max n t.n) 0)
  { w with k :=
      if held && decide (r.2.2 < tiles.length) then
        k.launch (.drain { d with pos := hi, ords := r.2.1, olds := olds, done := List.replicate r.2.2 [] })
      else k }

/-- One instruction of the walk. -/
def Walk.step (w : Walk) : Walk :=
  match w.k.img.instrs[w.k.run.pc]? with
  | none => w
  | some t =>
    let w := match t.op? with
      | some .dpass => w.pass t false
      | some .tpass => w.pass t true
      | some .opass =>
        let w := t.engines.foldl (fun (w : Walk) e => w.use e (t.tagOf e)) { w with count := w.count + 1 }
        if t.oAdd then w else t.engines.foldl (fun w e => w.setTag e (t.tagOf e) t.mExt (t.nExtOf e) t.colKind) w
      | some .refill =>
        match readRecord w.k.store t.recOff t.sEng t.sTag 0 with
        | some x => w.setTag t.sEng t.sTag x.mExt x.nExt x.kind
        | none => w
      | some .bdrain => w.drain t
      | some .chain => { w with k := { w.k with lists := w.k.lists.set 0 (if t.listEmpty then none else some t.listIdx) } }
      | some .pchain =>
        { w with k := { w.k with lists :=
          if t.listEmpty then w.k.lists.set t.pTarget none else w.k.lists.set (w.k.listTarget t.listIdx) (some t.listIdx) } }
      | _ => w
    { w with k := w.k.nextPc t }

/-- Walk until the place and the loop counters are those of the record. -/
def Walk.run (pc : Nat) (loops : List (Option (BitVec 16))) : Nat → Walk → Walk
  | 0, w => w
  | n + 1, w => if w.k.run.pc = pc ∧ w.k.loops = loops then w else Walk.run pc loops n w.step

/-- More instructions than any program starts: 2,048 instructions under four loops of 65,536. -/
def walkFuel : Nat := 2 ^ 80

/-- What a record does not hold of the first crossing of a restored held drain, free values of restore n (log entry 7): the
report of its accumulation and stages, the values of tiles that have left the area, and the results of the reductions that its
tiles have passed. Its checks have set the step-poison bit when it was saved (R165, R286). -/
def Flight.free (n : Nat) (f : Flight) : Flight :=
  match f.work with
  | .drain d =>
    let r := Config.heldReport n f.id
    let gs := stagesOf d.list
    let passed := if d.done.isEmpty then gs.take d.pos else gs
    let key := fun q p i j => ((q * 16 + p) * 1024 + i) * 1024 + j + 2 ^ 32 * f.id
    let done := ((List.range d.done.length).zip d.tiles).map fun x => (List.range x.2.m).map fun i => (List.range x.2.n).map fun j =>
      if i < x.2.mLim ∧ j < x.2.nLim then some (Config.heldValue n (key x.1 15 i j), Config.heldDraw n (key x.1 15 i j)) else none
    let m := d.tiles.foldl (fun m t => max m t.m) 0
    let w := d.tiles.foldl (fun m t => max m t.n) 0
    let ps := (List.range passed.length).zip passed
    let rowRed := ps.flatMap fun p =>
      if p.2.code = cREDROWS then (List.range m).map fun i => (1024 * p.1 + i, some (Config.heldValue n (key 14 p.1 i 0))) else []
    let vecs := ps.flatMap fun p =>
      if p.2.code = cREDCOLS then (List.range w).flatMap fun j => (d.redWrite p.2 p.1 j (Config.heldValue n (key 13 p.1 0 j))).1 else []
    { f with work := .drain { d with
        tiles := match d.tiles with | t :: ts => { t with exc := r.1, cap := r.2.1 } :: ts | [] => []
        done := done, rowRed := Tab.canon none rowRed
        out := { d.out with
          vecs := vecs, chain := Flags.ofCode r.2.2.toNat } } }
  | _ => f

/-- The row codes and exception states of a row set, as its origin for a replay. -/
def Core.rowCodes (k : Core) (x : RowSet) : List Nat × List (Word × Word) :=
  ((List.range x.vecMax).flatMap fun i => (List.range (rowWidth x.tree)).map fun n => k.rdRow x.tree (i % 4) (x.row + i / 4) n,
   (List.range x.vecMax).map fun i => k.vecExc x i)

/-- Complete a restored core from its program: row sets, drain_seq, groups and held tiles. -/
def Core.rewalk (k : Core) (col : Bool) (counts : List Nat) (free : Nat) : Core :=
  let start : Core := { k with
    run := { k.run with pc := 0, drainSeq := 0 }, loops := loopsIdle, lists := listsEmpty, groups := [.none, .none]
    plain := { k.plain with sets := [] }, flight := [] }
  let w := Walk.run k.run.pc k.loops walkFuel ⟨col, start, [], 0, []⟩
  let used := fun (x : Slot) => ((w.uses.find? fun u => u.1 == x.eng && u.2.1 == x.tag).map fun u => u.2.2).getD 0
  { k with
    run := { k.run with drainSeq := w.k.run.drainSeq }
    groups := ((List.range 2).zip counts).map fun x => { w.k.grp x.1 with count := x.2 }
    area := if w.k.flight.isEmpty then none else
      some (match (w.k.flight.headD default).work with | .drain d => (d.plan k).bankAt d.pos | _ => 0)
    slots := k.slots.map fun x => if x.st = .empty then x else { x with used := used x }
    plain := { k.plain with sets := w.k.plain.sets.map fun x =>
      { x with org := some ((k.rowCodes x).1, (k.rowCodes x).2, x.ksum), passes := [] } }
    flight := w.k.flight.map (Flight.free free), nextF := k.nextF + w.k.nextF + w.count + 1 }

/-- What a slot's record re-fills: place in the plane, source, length; a slot of a page of several takes its own part. -/
def slotParts (e : Nat × Word × Word) : List (Nat × Nat × Nat) :=
  let part := fun (w : Word) (half : Nat) => show List (Nat × Nat × Nat) from
    if !recValid w then []
    else
      let cls := recClass w
      [(32768 * e.1 + 16384 * half, recSrc w + (if cls ≤ 1 then 0 else 32768 * (e.1 % (if cls = 2 then 2 else 4))),
        if cls = 0 then 16384 else 32768)]
  if recClass e.2.1 = 0 then part e.2.1 0 ++ part e.2.2 1 else part e.2.1 0

/-- The re-fill of some slots is over: the retries of its lines count no more (R337). -/
def Core.rereadOver (k : Core) (recs : List (Nat × Word × Word)) : Core :=
  { k with plain := { k.plain with rereads := k.plain.rereads.filter fun t => !(recs.any fun r => r.1 == t.1 / 512) } }

/-- Slots of the plane re-filled from their records, with fresh parity (R119, R121). -/
def State.refillFrom (s : State) (k : Core) (recs : List (Nat × Word × Word)) : Core :=
  (recs.flatMap slotParts).foldl (fun k p =>
    { k with plain := k.plain.planeWrite p.1 p.2.2 (s.readFabric p.2.1 p.2.2) }) (k.rereadOver recs)

/-- A source of the records lies in a granule of a withdrawn port, or holds a flagged line (R235, R336). -/
def State.recsLost (s : State) (recs : List (Nat × Word × Word)) : Bool :=
  (recs.flatMap slotParts).any fun p => s.badRange (.fabric p.2.1) 0 p.2.2

/-- The same, or a line of the re-fill of one of the slots has been lost on its way (R337). -/
def State.refillLost (s : State) (k : Core) (recs : List (Nat × Word × Word)) : Bool :=
  s.recsLost recs || recs.any fun r => k.plain.rereads.any fun t => decide (t.1 / 512 = r.1) && decide (5 ≤ t.2)

/-- Re-fill the plane from the slot records (R121). -/
def State.refillPlane (s : State) (k : Core) : Core := s.refillFrom k k.plain.recs

/-- The core that a record restores, in state 11; in state 00 with the failing status where its image does not pass (R272). Guest
vectors that the overwritten core had not drained stay open: R118 does not name RESTORE_CONTEXT, so they wait for the next command
that discards them (DESIGN CHOICE, unsafe, log entry 14). -/
def State.restoredCore (s : State) (a c : Nat) : Core :=
  let m := s.mem
  let k := s.core c
  let w := fun i => m.word (a + 8 * i)
  let left : Core := { k.recycled with plain := { k.recycled.plain with orphans := k.openGuests } }
  let fail := fun (st : Status) =>
    { left with
      run := { RunSt.reset with status := BitVec.ofNat 8 st.code, unloaded := BitVec.ofNat 8 st.code } }
  match ctxImage m a with
  | none => fail .malformed
  | some im =>
    match checkImage s.cfg c s.blk.cores im with
    | some e => fail e.status
    | none =>
      let rs := w 1
      let k1 : Core := { left with
        img := im
        run := { RunSt.reset with
          status := BitVec.ofNat 8 (fld rs 63 56), pc := fld rs 55 45, failIdx := fld rs 44 34, state := .saved
          runs := BitVec.ofNat 32 (fld rs 31 0) }
        gen := w 2
        loops := (List.range 4).map fun l =>
          let x := fld (w 3) (16 * l + 15) (16 * l)
          if x = 0xFFFF then none else some (BitVec.ofNat 16 x)
        lists := (List.range 5).map fun l =>
          let x := fld (w 7) (7 * l + 6) (7 * l)
          if 64 ≤ x then none else some x
        fords := (m.words (a + 0x14000) im.fords.length).map fordOf
        phases := (m.words (a + 0x14600) 32).map phaseOf
        banks := banksFrom m (a + 0x15000)
        store := m.part (a + ctxStore c) (storeSize (isCol c))
        plain := { left.plain with
          colAcc := if isCol c then [] else tabFrom m (a + 0x19000) 1024
          treeAcc := if isCol c then [] else tabFrom m (a + 0x1A000) 8192
          rowExc := if isCol c then [] else pairsFrom m (a + 0x22000) 80
          recs := if isCol c then [] else pairsFrom m (a + 0x23000) 1024 } }
      let k1 := (List.range k1.fords.length).foldl (fun k n => k.fireFord n false) k1
      let k2 := if isCol c then k1.placeSlots ((List.range 4).map (ctxSlot m a)) else s.refillPlane k1
      k2.rewalk (isCol c) [fld (w 6) 7 0, fld (w 6) 15 8] s.free

end Sys2Proof.Machine
end

