-- ==== Sys2Proof/Machine/Command.lean ====
section
/-! DEFINITION. The Yusumet commands (R57, R58, R100, R101, R118, R145, R186, R194, R197, R228, R235, R246 to R268, R272, R277,
R286, R287, R290, R295, R336, R342, R350, R366, R367). -/

namespace Sys2Proof.Machine

open Host

/-! ### Commands that act at once -/

/-- NOP. -/
def execNop (pk : Nat) (s : State) : Out := .next (s.command pk 0x01 fun p => s.complete p .ok 0 0 0)

/-- FENCE: every earlier packet of its port has completed when it starts. -/
def execFence (pk : Nat) (s : State) : Out := .next (s.command pk 0x02 fun p => s.complete p .ok 0 0 0)

/-- QUERY_CAPS. -/
def execQueryCaps (pk : Nat) (s : State) : Out :=
  .next (s.command pk 0x50 fun p => s.complete p .ok 0 0 (if bitOf p.hdr 0 then s.aon.caps1 else s.aon.caps0))

/-! ### Tenant state at the lead (R277) -/

/-- The reply words of a status. -/
def replyOf (p : Packet) (st : Status) (data : Word) : Word × Word :=
  (replyWord p st.code 0 0, if carriesData st.code then data else 0)

/-- STEP_BEGIN at the lead (R254, R286). -/
def State.tsStepBegin (s : State) (p : Packet) : State × Word × Word :=
  let id := BitVec.ofNat 32 (fld (p.arg 1) 31 0)
  if (s.auth.ten p.tenant).stepOpen then (s, replyOf p .malformed 0)
  else (s.changeTs fun x => x.modTen p.tenant fun y => { y with stepOpen := true, stepId := id, poison := false },
    replyOf p .ok (word id.toNat))

/-- STEP_COMMIT at the lead (R254, R287, R295). -/
def State.tsStepCommit (s : State) (p : Packet) : State × Word × Word :=
  let id := BitVec.ofNat 32 (fld (p.arg 1) 31 0)
  let y := s.auth.ten p.tenant
  if !y.stepOpen || decide (y.stepId ≠ id) then (s, replyOf p .malformed 0)
  else if y.poison then
    (s.changeTs fun x => x.modTen p.tenant fun y => { y with stepOpen := false }, replyOf p .poisonedStep 0)
  else (s.changeTs fun x => x.modTen p.tenant fun y => { y with stepOpen := false, live := !y.live },
    replyOf p .ok (word id.toNat))

/-- Spares of the health block (R259, R350). -/
def Core.sparesWord (k : Core) (c : Nat) : Nat :=
  if isCol c then
    put 3 0 k.rep.rowsEx.length + put 7 4 (k.rep.colsEx.getD 0 []).length + put 11 8 (k.rep.colsEx.getD 1 []).length
  else k.rep.planeSpare.length

/-- The health block of a tenant, in words (R259). -/
def State.healthBlock (s : State) (t : Nat) (cores : List Nat) : List Word :=
  let y := s.auth.ten t
  let fenced := coreMaskOf (List.range s.cfg.nCores) fun c => (s.core c).rep.coreFenced
  [word (put 63 56 1 + put 55 52 t + put 47 40 cores.length + maskOf cores), y.stickyExc, y.cap,
   word (put 63 63 y.stepOpen.toNat + put 62 62 y.poison.toNat + y.stepId.toNat), word fenced,
   word (put 51 32 (maskOf s.aon.listA) + maskOf s.aon.withdrawn), word s.now, s.marginWord]
  ++ cores.flatMap fun c =>
    let k := s.core c
    [k.run.word, k.rep.engMap,
     word (put 47 32 k.planePar.toNat + put 31 16 k.eccUnc.toNat + k.eccCor.toNat), word (k.sparesWord c)]

/-- READ_HEALTH at the lead: the block is written, and with clear set the sticky registers are zero after it (R145, R259). A block
that lies at a port withdrawn meanwhile, or of which the Valley network loses a line, is not written (R235, R337, R356).
Before SEAL it reports tenant 0 and no cores. -/
def State.tsReadHealth (s : State) (p : Packet) : State × Word × Word :=
  let t := if s.aon.sealed then p.tenant else 0
  let cores := if s.aon.sealed then s.auth.coresOf t else []
  let b := s.healthBlock t cores
  let a := s.packetAddr p (fld (p.arg 1) 47 0) (8 * b.length)
  if p.lost then (s, replyOf p .faultFenced 0)
  else if s.lostRange a (8 * b.length) then (s, replyWord p Status.faultFenced.code 7 (s.lostMask a (8 * b.length)), 0)
  else
  let s := s.wrFabric (wordBytes a b)
  let s := if p.opt then s.changeTs fun x => x.modTen t fun y => { y with invDrains := 0, flags := 0, cap := 0 } else s
  (s, replyOf p .ok (word b.length))

/-- BIND at the lead: the bindings of the cores taken (R267 step 6); of no cores it changes nothing (R251). -/
def State.tsBind (s : State) (p : Packet) : State × Word × Word :=
  (if p.acted.isEmpty then s else s.changeTs fun x => p.acted.foldl (fun x c => x.setBind c (some p.tenant)) x,
    replyOf p .ok (word (maskOf p.acted)))

/-- RELEASE at the lead (R251, R267, R343). -/
def State.tsRelease (s : State) (p : Packet) : State × Word × Word :=
  (if p.acted.isEmpty then s else s.changeTs fun x =>
    { p.acted.foldl (fun x c => x.setBind c none) x with recov := x.recov.filter fun c => !p.acted.contains c },
    replyOf p .ok (word (maskOf p.acted)))

/-- RESET_TENANT at the lead (R145, R254, R286). -/
def State.tsReset (s : State) (p : Packet) : State × Word × Word :=
  (s.changeTs fun x => x.modTen p.tenant fun y =>
    { y with invDrains := 0, flags := 0, cap := 0, stepOpen := false, poison := false },
    replyOf p .ok (word (maskOf p.acted)))

/-- The tenant-state part of a packet, with its reply. -/
def State.tsPart (s : State) (p : Packet) : State × Word × Word :=
  match p.opcode with
  | 0x10 => s.tsBind p
  | 0x11 => s.tsRelease p
  | 0x40 => s.tsStepBegin p
  | 0x41 => s.tsStepCommit p
  | 0x52 => s.tsReadHealth p
  | _ => s.tsReset p

/-- Complete a packet whose tenant-state part has been applied, once a follower that is present holds the change. -/
def State.tsDone (s : State) (p : Packet) (w : Word × Word) : State :=
  if s.follower? && decide ((s.cp s.leadHalf.other).ts.gen ≠ s.auth.gen) then
    s.setPkt { p with st := .mirror s.auth.gen, reply := some w } else s.finish p w.1 w.2

/-- A tenant-state part that may not be made now, of a packet that has started: its command processor claims the lead or has no
current copy, or the tenant is split (R283, R284). -/
def State.tsHeld (s : State) (p : Packet) : Bool :=
  s.aon.sealed && s.cfg.hasEast &&
    (decide (s.role p.half = .claiming) || !(s.cp p.half).current || s.splitTenant p.half p.tenant p.acted)

/-- The merges that a packet has caused have reached the lead: those of the tenants of the cores that it acted on, and of their
guests (R118, R277). -/
def State.mergedFor (s : State) (p : Packet) : Bool :=
  (p.tenant :: p.acted.filterMap fun c => s.auth.bind.getD c none).all s.merged

/-- The tenant-state part of a packet: at the lead at once, from a follower by a request to the lead. -/
def State.tsFinish (s : State) (p : Packet) : State :=
  if s.tsHeld p || (coreOrdered p.opcode && !s.mergedFor p) then s.setPkt p
  else if s.aon.sealed && s.cfg.hasEast && decide (s.role p.half = .follower) then
    if p.asked then s.setPkt p
    else (s.setPkt { p with st := .running, asked := true }).post p.half.other (.request p.id)
  else
    let r := s.tsPart p
    r.1.tsDone p r.2

/-- STEP_BEGIN. -/
def execStepBegin (pk : Nat) (s : State) : Out := .next (s.command pk 0x40 s.tsFinish)

/-- STEP_COMMIT. -/
def execStepCommit (pk : Nat) (s : State) : Out := .next (s.command pk 0x41 s.tsFinish)

/-- READ_HEALTH. -/
def execReadHealth (pk : Nat) (s : State) : Out := .next (s.command pk 0x52 s.tsFinish)

/-! ### BIND, RELEASE, RESET_TENANT (R118, R254, R267, R268, R311) -/

/-- Prepare a core for a boundary: power it up if it is OFF, otherwise hold its sequencer. What a BIND that then fails has powered up
goes OFF again (State.unpower). -/
def State.prepCore (s : State) (c : Nat) : State :=
  match s.dom c with
  | .still .off => s.startDom c .on 8
  | .still .on => s.holdCore c
  | _ => s

/-- A core that BIND may act on: it is bound to the tenant already, or ON and at its boundary, with every merge of the tenant that it
is taken from made (R267, R277). -/
def State.bindReady (s : State) (p : Packet) (c : Nat) : Bool :=
  match s.bindIn (s.cp p.half).ts c with
  | some u => decide (u = p.tenant) || (s.domOn c && (s.core c).atRest && s.merged u)
  | none => s.domOn c && (s.core c).atRest

/-- A core already bound to the tenant is left as it is; any other is prepared (R267). -/
def State.prepBind (s : State) (p : Packet) (c : Nat) : State :=
  if s.bindIn (s.cp p.half).ts c = some p.tenant then s else s.prepCore c

/-- A packet that another command ends, once the merges of its drains stand at the lead and at a follower that is present (R277): its
cores go on at once, and what it still moves is dropped. -/
def State.endPacket (s : State) (q : Packet) (dkind detail : Nat) : State :=
  let q' := { q with todo := [], acted := [], asked := false, answered := false }
  let w : Word × Word := (replyWord q Status.notPermitted.code dkind detail, 0)
  let s := (s.letGo q.id (q.todo ++ q.acted)).setPkt q'
  let s := (if s.follower? && coreOrdered q.opcode && !s.merged q.tenant then
      s.setPkt { q' with st := .mirror s.auth.gen, reply := some w } else s.tsDone q' w).unpower q
  { s with blk := { s.blk with xfers := s.blk.xfers.filter fun x => decide (x.owner ≠ .packet q.id) } }

/-- Cores that an executing packet acts on. -/
def Packet.onCoresNow (p : Packet) : List Nat := if p.opcode = 0x30 then p.moveCores else p.acted ++ p.todo

/-- Packets of another tenant that execute on cores taken complete with NOT_PERMITTED (R268). -/
def State.evictPackets (s : State) (taken : List Nat) (t : Nat) : State :=
  s.blk.pkts.foldl (fun s q =>
    let m := coreMaskOf q.onCoresNow taken.contains
    if q.tenant ≠ t ∧ (q.st = .acting ∨ q.st = .running) ∧ m ≠ 0 then s.endPacket q 4 m else s) s

/-- The drains of a core are given up: the poison that they have seen is merged, and the guest vectors that wait there are discarded
(R118, R165). -/
def State.leaveDrains (s : State) (c : Nat) : State := (s.leavePoison c (s.core c) (s.core c).flight).discardGuests c

/-- Steps 3 to 5 of R267 on one core. -/
def State.takeCore (s : State) (p : Packet) (c : Nat) : State :=
  let s := match s.bindIn (s.cp p.half).ts c with
    | some u => if s.tenEvict u then s.saveCtx c u (s.evictAddr u c) else s
    | none => s
  (s.leaveDrains c).modCore c Core.recycled

/-- BIND acts: the shares are judged once more, against the bindings of this beat (R264), and a save that would read a marked
word fails it (R336). -/
def State.bindAct (s : State) (p : Packet) : State :=
  let bound := fun c => decide (s.bindIn (s.cp p.half).ts c = some p.tenant)
  let cs := p.acted.filter fun c => !bound c
  let evict := fun c => ((s.bindIn (s.cp p.half).ts c).map s.tenEvict).getD false
  if p.bindBad s ≠ 0 then s.failOnCores p ⟨.notPermitted, 4, p.bindBad s⟩
  else if cs.any fun c => evict c && !(s.core c).bad.isEmpty then s.failOnCores p ⟨.faultFenced, 0, 0⟩
  else
    ((cs.foldl (fun s c => s.takeCore p c) s).evictPackets cs p.tenant).setPkt { p with acted := cs }

/-- BIND. -/
def execBind (pk : Nat) (s : State) : Out :=
  .next (s.command pk 0x10 fun p =>
    s.onCores p (fun s c => s.prepBind p c) (fun s => s.bindReady p) State.bindAct State.tsFinish)

/-- A core of a RELEASE is fenced, not ON, or at its boundary. -/
def State.releaseReady (s : State) (c : Nat) : Bool :=
  (s.core c).rep.coreFenced || decide (s.dom c = .still .off) || (s.domOn c && (s.core c).atRest)

def State.releaseAct (s : State) (p : Packet) : State :=
  (p.acted.foldl (fun s c =>
    if (s.core c).rep.coreFenced then s else (s.leaveDrains c).modCore c Core.recycled) s).setPkt p

/-- RELEASE: its cores go OFF at its completion (R311). -/
def execRelease (pk : Nat) (s : State) : Out :=
  .next (s.command pk 0x11 fun p => s.onCores p State.holdCore State.releaseReady State.releaseAct State.tsFinish)

/-- Every packet of the tenant dispatched before a RESET_TENANT and not complete ends with NOT_PERMITTED (R254). -/
def State.endPackets (s : State) (p : Packet) : State :=
  s.blk.pkts.foldl (fun s q =>
    if q.id ≠ p.id ∧ q.tenant = p.tenant ∧ q.dispatched ∧ q.order < p.order then
      s.endPacket q 8 p.sequence
    else s) s

/-- RESET_TENANT acts. A fenced core of the tenant stays as it is, fails nothing and stands in the mask of cores reset: R254 and R342
do not say (DESIGN CHOICE, unsafe, log entry 30). -/
def State.resetAct (s : State) (p : Packet) : State :=
  ((p.acted.foldl (fun s c =>
    if (s.core c).rep.coreFenced then s else (s.leaveDrains c).modCore c Core.cleared) s).endPackets p).setPkt p

/-- RESET_TENANT. -/
def execResetTenant (pk : Nat) (s : State) : Out :=
  .next (s.command pk 0x7F fun p =>
    s.onCores p State.holdCore (fun s c => s.releaseReady c && s.merged p.tenant) State.resetAct State.tsFinish)

/-! ### Contexts (R91, R254, R271, R272, R336) -/

/-- Each named core with the offset of its record. -/
def ctxPlaces : List Nat → Nat → List (Nat × Nat)
  | [], _ => []
  | c :: cs, o => (c, o) :: ctxPlaces cs (o + ctxSize c)

def State.saveAct (s : State) (p : Packet) : State :=
  let a := s.packetAddr p (fld (p.arg 2) 47 0) (ctxBytes p.acted)
  if p.acted.any fun c => !(s.core c).bad.isEmpty then
    s.complete p .faultFenced 0 0 0
  else
    ((ctxPlaces p.acted 0).foldl (fun s x =>
      let s := s.leaveDrains x.1
      (s.saveCtx x.1 p.tenant (a + x.2)).modCore x.1 Core.afterSave) s).setPkt p

/-- Complete with OK and the mask of cores acted on, once the merges that the packet has caused stand at the lead, and at the mirror
of a follower that is present (R277). -/
def State.mergedMask (s : State) (p : Packet) : State :=
  if s.mergedFor p then s.tsDone p (replyOf p .ok (word (maskOf p.acted))) else s.setPkt p

/-- SAVE_CONTEXT. -/
def execSaveContext (pk : Nat) (s : State) : Out :=
  .next (s.command pk 0x12 fun p =>
    s.onCores p State.holdCore (fun s c => (s.core c).atRest) State.saveAct State.mergedMask)

/-- The highest failure of several cores, each listed in ascending order (R250). -/
def worstBad (l : List Bad) : Option Bad :=
  l.foldl (fun b x => match b with
    | none => some x
    | some y => if rankOf x.status.code < rankOf y.status.code then some x else b) none

/-- What fails a record of one core: the checks of R272, or a page source that is lost (R235, R336). -/
def State.recordBad (s : State) (a c tenant : Nat) : Option Bad :=
  match s.ctxBad s.mem a c tenant with
  | some st => some ⟨st, 0, 0⟩
  | none =>
    let recs := if isCol c then [] else pairsFrom s.mem (a + 0x23000) 1024
    let lost := ((recs.flatMap slotParts).map fun x => s.lostMask x.2.1 x.2.2).foldl (· ||| ·) 0
    if s.recsLost recs then some (if lost = 0 then ⟨.faultFenced, 0, 0⟩ else ⟨.faultFenced, 7, lost⟩) else none

/-- One core is restored; what the checks of drains that it held have seen reaches the step-poison bits first (R165). -/
def State.restoreOne (s : State) (a c : Nat) : State :=
  let s := s.leavePoison c (s.core c) (s.core c).flight
  { s.setCore c (s.restoredCore a c) with free := s.free + 1 }

/-- RESTORE_CONTEXT acts: every record is checked before any core is written, and the failure that ranks highest is the reply's
(R250, R272). -/
def State.restoreAct (s : State) (p : Packet) : State :=
  let n := ctxBytes p.acted
  let a := s.packetAddr p (fld (p.arg 2) 47 0) n
  let places := ctxPlaces p.acted 0
  if s.badRange (.fabric a) 0 n then s.complete p .faultFenced 0 0 0
  else match worstBad (places.filterMap fun x => s.recordBad (a + x.2) x.1 p.tenant) with
    | some b => s.reject p b
    | none =>
      let s' := places.foldl (fun s x => s.restoreOne (a + x.2) x.1) s
      s'.setPkt { p with acted := p.acted.filter fun c => decide ((s'.core c).run.state = .saved) }

/-- RESTORE_CONTEXT. -/
def execRestoreContext (pk : Nat) (s : State) : Out :=
  .next (s.command pk 0x13 fun p =>
    s.onCores p State.holdCore (fun s c => (s.core c).atRest) State.restoreAct State.mergedMask)

/-! ### Images (R186, R197, R213, R228, R255) -/

/-- The image of a LOAD_PROGRAM or of a bucket, checked for one core: alias, header, window, ports, flagged lines, then the rest
of R186. What is remembered is the translated address (R255, R289, R291). -/
def State.imageFor (s : State) (p : Packet) (a c : Nat) : Except Bad Image :=
  let fail := fun (e : ImgFail) => (⟨e.status, 2, put 31 27 c + put 26 25 e.section_ + put 24 14 e.index⟩ : Bad)
  let place := fun (n : Nat) =>
    match s.translate p.tenant p.live 0 a n with
    | none => Except.error (badField .notPermitted 2 0)
    | some b =>
      if !s.inWindow p.tenant b n then .error (badField .notPermitted 2 0)
      else if s.lostRange b n then .error ⟨.faultFenced, 7, s.lostMask b n⟩
      else if s.badRange (.fabric b) 0 n then .error ⟨.faultFenced, 0, 0⟩
      else .ok b
  if aliasBad a then .error (badField .malformed 2 0)
  else match place 64 with
  | .error e => .error e
  | .ok b =>
    let h := s.mem.words b 8
    if headerBad (isCol c) h then .error (fail ⟨.malformed, 0, 0⟩)
    else match place (imgBytes h) with
      | .error e => .error e
      | .ok b => match loadCheck s.cfg c s.blk.cores s.mem b with
        | .error e => .error (fail e)
        | .ok im => .ok { im with addr := some b }

/-- The image replaces the core's program, chain and Ford memory; Fords and timers restart (R186, R197, R213, R228). Guest
vectors that wait in its guest Fords stay open (R118; DESIGN CHOICE, log entry 31). -/
def Core.load (k : Core) (im : Image) : Core :=
  let lines := (im.fords.filter fordReduce).flatMap fun w => wordBytes (fordBase w) [word (1 <<< 56), 0, 0, 0, 0, 0, 0, 0]
  { k.wrStore lines with
    img := im
    fords := im.fords.map fun w => ⟨0, BitVec.ofNat 16 (fordTarget w), [], 0⟩
    plain := { k.plain with orphans := k.plain.orphans ++ k.waitingGuests }
    phases := List.replicate 32 PhaseT.zero
    run := { k.run with state := .loaded, pc := 0, runs := 0, unloaded := 0 } }

/-- A core that a program may be loaded into or started on: none runs there and nothing of one is left. -/
def State.idleCore (s : State) (c : Nat) : Bool :=
  decide ((s.core c).run.state ≠ .running) && (s.core c).rep.defect.isEmpty && !(s.core c).rep.tapPending
    && (s.core c).rep.remap.isEmpty

def State.loadAct (s : State) (p : Packet) : State :=
  let r := p.acted.map fun c => (c, s.imageFor p (fld (p.arg 2) 47 0) c)
  match worstBad (r.filterMap fun x => match x.2 with | .error b => some b | .ok _ => none) with
  | some b => s.reject p b
  | none =>
    (r.foldl (fun s x => match x.2 with
      | .ok im => s.modCore x.1 fun k => k.load im
      | .error _ => s) s).setPkt p

/-- The region of the image that the first named core holds. -/
def State.regionOf (s : State) (p : Packet) : Nat :=
  match p.acted with
  | c :: _ => fld ((s.core c).img.hdr.getD 2 0) 47 32
  | [] => 0

def State.loadDone (s : State) (p : Packet) : State :=
  s.complete p .ok 0 0 (word (put 47 32 (s.regionOf p) + maskOf p.acted))

/-- LOAD_PROGRAM. -/
def execLoadProgram (pk : Nat) (s : State) : Out :=
  .next (s.command pk 0x20 fun p => s.onCores p (fun s _ => s) State.idleCore State.loadAct State.loadDone)

/-! ### RUN (R194, R250, R254, R256, R290) -/

/-- The parameter line (R256). Counts and indices of more than 65,535 chunks keep their low 16 bits, here and in a reply: R257 bounds
neither (DESIGN CHOICE, unsafe, log entry 30). -/
def paramLine (chunkLen idx cnt total : Nat) (args : List Word) : List Word :=
  ([word (put 31 0 chunkLen), word (put 31 16 idx + put 15 0 cnt), word (put 31 0 total)] ++ args ++ [0, 0, 0, 0, 0]).take 8

/-- The Ford of a parameter line exists in the core's table, is neither a reduce nor a guest Ford, and can take the line and its
arrival (R197, R256). -/
def paramOk (p : Packet) (k : Core) : Bool :=
  let n := fld p.hdr 5 0
  match k.fordEntry n with
  | some w => !fordReduce w && !fordGuest w && decide (64 ≤ fordSize w) && decide ((k.ford n).count ≠ 0xFFFFFF)
  | none => false

/-- The parameter check of a packet over its cores. -/
def paramBad (p : Packet) (ks : List Core) : Option Bad :=
  failIf (bitOf p.hdr 6 && !ks.all (paramOk p)) (badField .malformed 0 0)

/-- Deliver a parameter line to the core's Ford: 64 bytes at offset 0, and one arrival. -/
def Core.takeLine (k : Core) (p : Packet) (line : List Word) : Core :=
  if bitOf p.hdr 6 then
    let n := fld p.hdr 5 0
    match k.fordEntry n with
    | some w =>
      ((k.wrStore (wordBytes (fordBase w) line)).modFord n fun f => { f with count := f.count + 1 }).fireFord n (k.ford n).fired
    | none => k
  else k

/-- Where a parameter line lands in the store. -/
def Core.lineAt (k : Core) (p : Packet) : List (Nat × Nat) :=
  if bitOf p.hdr 6 then (k.fordEntry (fld p.hdr 5 0)).toList.map fun w => (fordBase w, 64) else []

/-- A RUN starts the loaded program at instruction 0 (R148, R194). Guest vectors that no drain has delivered stay open (R118). -/
def Core.fresh (k : Core) : Core :=
  { k with
    slots := List.replicate 4 .reset, loops := loopsIdle, lists := listsEmpty, groups := [.none, .none], area := none
    flight := []
    plain := { k.plain with sets := [], orphans := k.plain.orphans ++ k.plain.sets.flatMap (·.guests) ++ k.flight.flatMap Flight.guests }
    run := { k.run with pc := 0, drainSeq := 0 } }

/-- The run state of a started core. -/
def RunSt.started (r : RunSt) (p : Packet) (chunk : Nat) : RunSt :=
  { r with
    state := .running, pkt := some p.id, tenant := p.tenant, live := p.live, chunk := chunk, ending := none, hold := false
    fault := false, exc := false }

/-- Why a core's run ends at once: it is fenced (R342), its decode check failed (R212), or it holds no program. -/
def Core.noRun (k : Core) : Option (BitVec 8) :=
  if k.rep.coreFenced then some (BitVec.ofNat 8 Status.faultFenced.code)
  else if k.run.unloaded ≠ 0 then some k.run.unloaded
  else if k.run.state = .empty ∨ k.img.instrs = [] then some (BitVec.ofNat 8 Status.malformed.code)
  else none

/-- A resumed core translates the destinations of the drains that it holds, with the live half and the chunk of its run (R289,
R290); one that may not be written ends the program. -/
def State.placeHeld (s : State) (c : Nat) : State :=
  (s.core c).flight.foldl (fun s f =>
    match f.work with
    | .drain d =>
      let k := s.core c
      let dst := if d.ti.dKind = 0 then s.fabricAt k d.ti.dDst (max d.span 1) true else .ok d.ti.dDst
      let st := if d.ti.stKind = 0 then s.fabricAt k d.ti.stAddr 8 true else .ok d.ti.stAddr
      match dst, st with
      | .ok a, .ok b => s.setCore c (k.setFlight { f with work := .drain { d with ti := d.ti.placed a b } })
      | .error e, _ | _, .error e => s.setCore c ((k.retire f.id).endWith e f.idx)
    | _ => s) s

/-- Start, or resume, the run of one core. -/
def State.startCore (s : State) (p : Packet) (chunk : Nat) (line : List Word) (resume : Bool) (c : Nat) : State × Option CoreRes :=
  let k := s.core c
  match k.noRun with
  | some st => (s, some ⟨c, st, k.run.failIdx, false, false, k.rep.coreFenced⟩)
  | none =>
    let k := k.takeLine p line
    let on := resume && decide (k.run.state = .saved)
    let k := if on then k else k.fresh
    let s := (s.setCore c { k with run := k.run.started p chunk, rep := { k.rep with replays := [] } }).touch c .other (k.lineAt p)
    (if on then s.placeHeld c else s, none)

/-- Start the runs of all named cores. -/
def State.startRuns (s : State) (p : Packet) (chunk : Nat) (line : List Word) (resume : Bool) : State :=
  let r := p.acted.foldl (fun (a : State × List CoreRes) c =>
    let x := a.1.startCore p chunk line resume c
    (x.1, a.2 ++ x.2.toList)) (s, [])
  r.1.setPkt { p with results := p.results ++ r.2, chunk := chunk }

def State.runAct (s : State) (p : Packet) : State :=
  match paramBad p (p.acted.map s.core) with
  | some b => s.reject p b
  | none => s.startRuns { p with chunks := 1 } 0 (paramLine 0 0 1 0 (p.words.drop 2)) p.opt

/-- RUN of no cores completes at once (R251). -/
def State.runNone (s : State) (p : Packet) : State := if p.acted.isEmpty then s.complete p .ok 0 0 0 else s.setPkt p

/-- RUN. -/
def execRun (pk : Nat) (s : State) : Out :=
  .next (s.command pk 0x21 fun p =>
    if p.st = .running then (if p.acted.isEmpty then s.settle p State.runNone else s)
    else s.drive p (fun s _ => s) State.idleCore State.runAct)

/-! ### SELECT_BUCKET (R255, R257) -/

/-- A bucket table in memory: its first word, lengths and the images of one bucket. -/
def bucketBad (w0 : Word) (lens imgs : List Word) (p : Nat) : Bool :=
  fld w0 63 56 != 1 || fld w0 55 52 != 0 || fld w0 39 16 != 0 || fld w0 47 40 != p
    || lens.any (fun w => fld w 63 16 != 0 || fld w 15 0 == 0) || imgs.any (fun w => fld w 63 48 != 0)
    || (lens.zip (lens.drop 1)).any fun x => decide (fld x.2 15 0 ≤ fld x.1 15 0)

/-- SELECT_BUCKET loads an image only where its address differs from that of the image last loaded, which a core that has since
been unloaded keeps (R212, R255, R336). -/
def Core.choose (k : Core) (im : Image) : Core := if k.img.addr = im.addr then k else k.load im

def State.selectAct (s : State) (p : Packet) : State :=
  let np := p.acted.length
  let ta := fld (p.arg 2) 47 0
  let len := fld (p.arg 3) 31 0
  let table := badField .malformed 2 0
  let w0 := s.mem.word (s.packetAddr p ta 8)
  let nb := fld w0 51 48 + 1
  let n := 1 + nb + nb * np
  match s.translate p.tenant p.live 0 ta (8 * n) with
  | none => s.reject p (badField .notPermitted 2 0)
  | some a =>
    let ws := s.mem.words a n
    let lens := (ws.drop 1).take nb
    let fits := lens.findIdx fun w => decide (len ≤ fld w 15 0)
    let b := min fits (nb - 1)
    let bl := fld (lens.getD b 0) 15 0
    if !s.inWindow p.tenant a (8 * n) then s.reject p (badField .notPermitted 2 0)
    else if s.lostRange a (8 * n) then s.reject p ⟨.faultFenced, 7, s.lostMask a (8 * n)⟩
    else if s.badRange (.fabric a) 0 (8 * n) then s.reject p ⟨.faultFenced, 0, 0⟩
    else if bucketBad w0 lens (ws.drop (1 + nb)) np then s.reject p table
    else if fits = nb ∧ !p.opt then s.reject p ⟨.bucketOverflow, 0, 0⟩
    else
      let imgs := (p.acted.zip ((ws.drop (1 + nb + b * np)).take np)).map fun x =>
        let ia := fld x.2 47 0
        (x.1, match s.imageFor p ia x.1 with
          | .error e => Except.error e
          | .ok im =>
            if fld (im.hdr.getD 2 0) 63 48 ≠ bl ∨ fld (im.hdr.getD 2 0) 47 32 ≠ fld w0 15 0 then
              Except.error ⟨.malformed, 2, put 31 27 x.1⟩
            else .ok im)
      match worstBad (imgs.filterMap fun x => match x.2 with | .error e => some e | .ok _ => none) with
      | some e => s.reject p e
      | none =>
        match paramBad p (imgs.filterMap fun x => match x.2 with | .ok im => some ((s.core x.1).choose im) | .error _ => none) with
        | some e => s.reject p e
        | none =>
          let s := imgs.foldl (fun s x => match x.2 with
            | .ok im => s.modCore x.1 fun k => k.choose im
            | .error _ => s) s
          let cnt := if fits = nb then (len + bl - 1) / bl else 1
          let p := { p with chunks := cnt, bucket := b, bucketLen := bl }
          s.startRuns p 0 (paramLine (if fits = nb then min bl len else len) 0 cnt len (p.words.drop 4)) false

/-- SELECT_BUCKET; of length 0, or of no cores, it is a no-op that reports the length requested (R251, R252, R255). -/
def execSelectBucket (pk : Nat) (s : State) : Out :=
  .next (s.command pk 0x22 fun p =>
    let void := p.coresMask == 0 || fld (p.arg 3) 31 0 == 0
    if p.st = .running then
      (if void then s.settle p fun s p => s.complete p .ok 0 0 (word (put 63 32 (fld (p.arg 3) 31 0))) else s)
    else s.drive p (fun s _ => s) State.idleCore (if void then fun s p => s.setPkt p else State.selectAct))

/-- Results of chunk i. -/
def Packet.resultsOf (p : Packet) (i : Nat) : List CoreRes := (p.results.drop (i * p.acted.length)).take p.acted.length

/-- The highest result, ties to the lowest core and then to the earliest chunk (R250). -/
def worstRes (l : List CoreRes) : Option CoreRes :=
  l.foldl (fun b x => match b with
    | none => some x
    | some y =>
      let rx := rankOf x.status.toNat
      let ry := rankOf y.status.toNat
      if rx < ry ∨ (rx = ry ∧ x.core < y.core) then some x else b) none

/-- OK, OK_EXCEPTIONS and FAULT_RETRIED let the next chunk run (R257). -/
def goodStatus (st : BitVec 8) : Bool := st == 0x00 || st == 0x01 || st == 0x20

/-- Every named core has ended the chunk that runs. -/
def Packet.chunkEnded (p : Packet) : Bool := p.results.length == (p.chunk + 1) * p.acted.length

def Packet.chunkGood (p : Packet) (i : Nat) : Bool := (p.resultsOf i).all fun r => goodStatus r.status

/-- Fail a packet that has run programs, once the other command processor has reported its part and a follower that is present holds
what it has merged (R276, R277). -/
def State.failRun (s : State) (p : Packet) (b : Bad) : State :=
  s.settle p fun s p => s.tsDone p (replyWord p b.status.code b.dkind b.detail, 0)

/-- The next chunk of a SELECT_BUCKET whose chunks so far were good and merged; a core fenced meanwhile fails it (R257, R277,
R342). -/
def State.nextChunk (s : State) (p : Packet) : State :=
  if p.opcode = 0x22 ∧ p.st = .running ∧ p.acted ≠ [] ∧ p.chunkEnded ∧ p.chunkGood p.chunk ∧ p.chunk + 1 < p.chunks
      ∧ s.merged p.tenant ∧ s.cpRuns p.half ∧ p.acted.all s.idleCore then
    let i := p.chunk + 1
    let len := fld (p.arg 3) 31 0
    if p.lost then s.failRun p ⟨.faultFenced, 0, 0⟩
    else if s.fencedOf p ≠ 0 then s.failRun p ⟨.faultFenced, 4, s.fencedOf p⟩
    else match paramBad p (p.acted.map s.core) with
    | some b => s.failRun p b
    | none => s.startRuns p i (paramLine (min p.bucketLen (len - i * p.bucketLen)) i p.chunks len (p.words.drop 4)) false
  else s

/-- SELECT_BUCKET_CHUNK. -/
def execSelectBucketChunk (pk : Nat) (s : State) : Out :=
  .next (match s.pkt? pk with | some p => s.nextChunk p | none => s)

/-- Data word of a run's reply (R252). -/
def Packet.runData (p : Packet) : Word :=
  if p.opcode = 0x22 then word (put 63 32 (fld (p.arg 3) 31 0) + put 15 0 p.bucketLen)
  else word (put 63 32 (maskOf ((p.results.filter (·.exc)).map (·.core))) + maskOf ((p.results.filter (·.fault)).map (·.core)))

/-- What the repairs of a run have to log is logged: no repair waits in a core that it named and that is ON (R335). -/
def State.repaired (s : State) (p : Packet) : Bool :=
  p.acted.all fun c => !s.domOn c || ((s.core c).rep.defect.isEmpty && (s.core c).rep.remap.isEmpty)

/-- The reply of a RUN or of the chunks of a SELECT_BUCKET, once a follower that is present holds what it has merged (R243, R250,
R257, R277, R341). -/
def State.runReply (s : State) (p : Packet) : State :=
  match worstRes p.results with
  | none => s.complete p .ok 0 0 0
  | some r =>
    let st := r.status.toNat
    let dead := maskOf ((p.results.filter (·.fenced)).map (·.core)).eraseDups
    let d : Nat × Nat :=
      if p.opcode = 0x22 then
        (6, put 31 16 (((List.range (p.chunk + 1)).filter p.chunkGood).length) + put 15 0 p.bucket)
      else if goodStatus r.status then (0, 0)
      else if r.fenced then (4, dead)
      else (3, put 31 27 r.core + put 26 16 r.failIdx)
    s.tsDone p (replyWord p st d.1 d.2, if carriesData st then p.runData else 0)

def State.runComplete (s : State) (p : Packet) : State :=
  if (p.opcode = 0x21 ∨ p.opcode = 0x22) ∧ p.st = .running ∧ p.acted ≠ [] ∧ p.chunkEnded
      ∧ !(p.chunkGood p.chunk && decide (p.chunk + 1 < p.chunks)) ∧ s.merged p.tenant ∧ s.repaired p ∧ s.cpRuns p.half then
    s.settle p State.runReply
  else s

/-- RUN_COMPLETION. -/
def execRunCompletion (pk : Nat) (s : State) : Out :=
  .next (match s.pkt? pk with | some p => s.runComplete p | none => s)

/-! ### MOVE (R207, R218, R219, R254, R336) -/

/-- The place of a store or Ford operand of a MOVE. -/
def movePlace (kind a : Nat) : Loc :=
  if kind = 1 then .store (a / 2 ^ 40 % 32) (a % 2 ^ 32) else .ford (a / 2 ^ 40 % 32) (a / 2 ^ 32 % 64) (a % 2 ^ 32)

def State.move (s : State) (p : Packet) : State :=
  let t := p.moveTI
  let span := fun pitch => (t.rows - 1) * pitch + t.rowBytes
  let src := if t.xSrcKind = 0 then Loc.fabric (if p.moveVoid then 0 else s.packetAddr p t.xSrc (span t.xSrcPitch))
    else movePlace 1 t.xSrc
  let dst := if t.xDstKind = 0 then Loc.fabric (if p.moveVoid then 0 else s.packetAddr p t.xDst (span t.xDstPitch))
    else movePlace t.xDstKind t.xDst
  let load := t.copy src
  let run := { p with st := .running, todo := [] }
  if p.st = .running then s
  else if p.moveVoid then
    if t.xDstKind = 2 then (s.setPkt run).startXfer p.tenant (.packet p.id) dst load else s.complete p .ok 0 0 0
  else if t.xSrcKind = 1 && (s.core (t.xSrc / 2 ^ 40 % 32)).touchesGuest (t.xSrc % 2 ^ 32) (span t.xSrcPitch) then
    s.reject p (badField .notPermitted 1 0)
  else if s.skewPast dst load then s.reject p (badField .malformed 2 0)
  else (s.setPkt run).startXfer p.tenant (.packet p.id) dst load

/-- MOVE. -/
def execMove (pk : Nat) (s : State) : Out := .next (s.command pk 0x30 s.move)

/-! ### FILL_PAGES (R100, R101, R254) -/

/-- The pages of a FILL_PAGES, in order. -/
def State.fillsOf (s : State) (p : Packet) : List Fill :=
  let cls := p.fillCls
  let n := pageBytes cls
  let step := if cls ≤ 1 then 1 else if cls = 2 then 2 else 4
  let a := s.packetAddr p (fld (p.arg 2) 47 0) (p.fillCount * n)
  (List.range p.fillCount).map fun i =>
    ⟨0, a + i * n, cls, p.fillFirst + i * step, none, some p.id, some (BitVec.ofNat 16 p.fillImage), 0, 0, false⟩

/-- Order the pages into one core. -/
def State.orderFills (s : State) (p : Packet) (c : Nat) : State :=
  ((s.fillsOf p).foldl (fun s f => s.addFill c f) s).stageNext c

/-- A core is served here, or the order has reached the command processor that serves it. -/
def State.reaches (s : State) (p : Packet) (c : Nat) : Bool := decide (s.servedBy c = p.half) || p.order2.isSome

/-- A command may act on core c: the core runs no program and nothing else waits to act on it first (R326), or it stands at a
boundary. -/
def State.coreFree (s : State) (p : Packet) (c : Nat) : Bool := s.reaches p c && (s.idleCore c || (s.core c).atRest)

/-- Act on every named core in one step, once each is free and no earlier core command that the packet waits for is left on
them (R246): a core that is fenced before that fails the packet and leaves the others unchanged (R247, R342). Until then the
cores that run are held at their boundaries. -/
def State.actAll (s : State) (p : Packet) (act : State → Packet → Nat → State) : State :=
  if p.todo.all (s.coreFree p) && !(p.ordered && s.coreHeld p) then
    ((p.todo.foldl (fun s c => act s p c) s).letGo p.id p.todo).setPkt { p with todo := [], acted := p.acted ++ p.todo }
  else
    ((p.todo.filter fun c => s.reaches p c && decide ((s.core c).run.state = .running)).foldl State.holdCore s).setPkt p

/-- A waiting packet acts as core c reaches its boundary, where the others are free too (R58, R101, R246, R342). -/
def State.actAtRest (s : State) (pk op c : Nat) (act : State → Packet → Nat → State) : State :=
  match s.pkt? pk with
  | none => s
  | some p =>
    if p.opcode = op ∧ p.st = .acting ∧ p.todo.contains c ∧ (s.core c).atRest ∧ (s.fencedBad p).isNone ∧ s.cpRuns p.half then
      s.actAll p act
    else s

/-- A command that acts on cores at their boundaries, and completes when what it began is done. -/
def State.eachCore (s : State) (p : Packet) (act : State → Packet → Nat → State) (fin : State → Packet → State) : State :=
  match s.fencedBad p with
  | some b => (s.reject p b).dropFills fun f => decide (f.pk = some p.id)
  | none =>
    if p.todo.isEmpty then (if p.pagesLeft = 0 then s.settle { p with acted := p.acted.mergeSort } fin else s)
    else s.actAll p act

/-- FILL_PAGES of no pages or no cores is a no-op (R251). -/
def State.fillPages (s : State) (p : Packet) : State :=
  let p := if p.acted.isEmpty ∧ p.pagesLeft = 0 then { p with pagesLeft := p.fillCount * p.todo.length } else p
  if p.fillCount = 0 then s.settle { p with todo := [] } State.doneMask
  else s.eachCore p State.orderFills State.doneMask

/-- FILL_PAGES. -/
def execFillPages (pk : Nat) (s : State) : Out := .next (s.command pk 0x31 s.fillPages)

/-- FILL_PAGES_AT_BOUNDARY. -/
def execFillPagesAtBoundary (pk c : Nat) (s : State) : Out :=
  coreCmd s c fun _ => s.actAtRest pk 0x31 c State.orderFills

/-! ### SET_SEED (R57, R58) -/

/-- The generator state that a seed gives core c. -/
def seedFor (seed : Word) (c : Nat) : Word :=
  let v := seed ^^^ (BitVec.ofNat 64 c <<< 56)
  if v = 0 then 1 else v

def State.loadSeed (s : State) (p : Packet) (c : Nat) : State :=
  s.modCore c fun k => { k with gen := seedFor (p.arg 2) c }

/-- SET_SEED. -/
def execSetSeed (pk : Nat) (s : State) : Out :=
  .next (s.command pk 0x60 fun p => s.eachCore p State.loadSeed State.doneMask)

/-- SEED_LOAD. -/
def execSeedLoad (pk c : Nat) (s : State) : Out := coreCmd s c fun _ => s.actAtRest pk 0x60 c State.loadSeed

/-! ### Timers (R213, R254, R258) -/

def State.phaseMarkAct (s : State) (p : Packet) : State :=
  let t := s.aon.time
  (p.acted.foldl (fun s c => s.modCore c fun k => k.markPhase (fld p.hdr 4 0) t) s).setPkt { p with pagesLeft := t.toNat }

/-- PHASE_MARK. The time written is kept in `pagesLeft` until the reply. -/
def execPhaseMark (pk : Nat) (s : State) : Out :=
  .next (s.command pk 0x42 fun p =>
    s.onCores p (fun s _ => s) (fun _ _ => true) State.phaseMarkAct fun s p => s.complete p .ok 0 0 (word p.pagesLeft))

def State.readTimersAct (s : State) (p : Packet) : State :=
  let a := s.packetAddr p (fld (p.arg 2) 47 0) (256 * p.acted.length)
  let words := p.acted.flatMap fun c =>
    if (s.core c).rep.coreFenced then List.replicate 32 0 else ((s.core c).phases ++ List.replicate 32 PhaseT.zero).take 32 |>.map PhaseT.word
  let s := s.wrFabric (wordBytes a words)
  let s := if p.opt then p.acted.foldl (fun s c => s.modCore c fun k => { k with phases := List.replicate 32 PhaseT.zero }) s else s
  s.setPkt p

/-- READ_TIMERS. -/
def execReadTimers (pk : Nat) (s : State) : Out :=
  .next (s.command pk 0x51 fun p =>
    s.onCores p (fun s _ => s) (fun _ _ => true) State.readTimersAct fun s p =>
      s.complete p .ok 0 0 (word (32 * p.acted.length)))

/-! ### The policy (R260 to R263, R366, R367) -/

/-- The value words of a WRITE_POLICY replace those of its field; after SEAL the policy stands (R260, R366). -/
def State.writePolicy (s : State) (p : Packet) : State :=
  match policySlot p.polIdx with
  | none => s
  | some (i, n) =>
    if s.aon.sealed then s.complete p .sealed 0 0 0
    else
      let words := (List.range n).map fun j => p.arg (1 + j)
      let pol := s.aon.policy.take i ++ words ++ s.aon.policy.drop (i + n)
      { s with aon := { s.aon with policy := pol } }.complete p .ok 0 0 0

/-- WRITE_POLICY. -/
def execWritePolicy (pk : Nat) (s : State) : Out := .next (s.command pk 0x70 s.writePolicy)

namespace State
variable (s : State)

/-- Every window in use: tenant, first granule, granules. -/
def windows : List (Nat × Nat × Nat) :=
  (List.range 16).flatMap fun t => (List.range (s.tenWindows t)).map fun w => (t, s.tenWin t w)

def enabledMask : Nat := maskOf ((List.range 16).filter s.tenEnabled)

/-- A mask that names enabled tenants only. -/
def onlyEnabled (m : Nat) : Bool := m &&& s.enabledMask == m

def overlapping (l : List (Nat × Nat × Nat)) : Bool :=
  match l with
  | [] => false
  | w :: t => t.any (fun v => overlap w.2.1 w.2.2 v.2.1 v.2.2) || State.overlapping t

/-- Bytes of an eviction area (R262). -/
def evictBytes : Nat := s.cfg.colCores * 0x191D000 + s.cfg.plainCores * 0x427000

/-- Whether a range lies inside one window of tenant t. -/
def evictOk (t : Nat) : Bool :=
  (List.range (s.tenWindows t)).any fun w =>
    decide ((s.tenWin t w).1 ≤ s.tenEvGran t)
      && decide (s.tenEvGran t * 4096 + s.evictBytes ≤ ((s.tenWin t w).1 + (s.tenWin t w).2) * 4096)

/-- A ring of port p lies inside a window of a tenant that the policy lists for it. -/
def sealRingOk (p : Nat) (h : HostPort) : Bool :=
  s.hostExists p && (bitsBelow 16 (s.hostTenants p)).any fun t =>
    s.inWindow t (4096 * h.base.toNat) (16 * ringEntries h.size.toNat)

/-- The checks of SEAL, in order (R262). -/
def sealOk : Bool :=
  let ts := List.range 16
  let hs := List.range 8
  let shares := ((List.range 16).map s.share).filter fun w => bitOf w 63
  ts.all (fun t => !s.tenEnabled t || (s.hostExists (s.tenOwner t) && (s.hostTenants (s.tenOwner t)).testBit t))
  && hs.all (fun h => s.onlyEnabled (s.hostTenants h) && s.onlyEnabled (s.hostRebind h))
  && shares.all (fun w => s.tenEnabled (fld w 59 56) && s.onlyEnabled (fld w 15 0))
  && shares.all (fun w => !(fld w 15 0).testBit (fld w 59 56))
  && decide ((shares.map fun w => fld w 47 32).Nodup)
  && s.windows.all (fun w => s.backed (4096 * w.2.1) (4096 * w.2.2))
  && !State.overlapping s.windows
  && hs.all (fun h => decide ((s.windows.filter fun w => s.tenOwner w.1 == h).foldl (fun n w => n + w.2.2) 0 ≤ s.hostMaxGran h))
  && ts.all (fun t => !s.tenEvict t || s.evictOk t)
  && (hs.all fun p => !(s.hp.getD p .reset).en || s.sealRingOk p (s.hp.getD p .reset))
end State

/-- The CRC of the policy (R263). -/
def State.polCrc (s : State) : BitVec 32 := BitVec.ofNat 32 (crc32 (s.aon.policy.flatMap bytesOfWord))

/-- The role of half h at SEAL: OFF where it is not built or in reset, LEAD where the policy names it (R263, R278). -/
def State.sealRole (s : State) (h : Half) : Role :=
  if !s.cpUp h then .off
  else if !s.cfg.hasEast || decide (h = if s.polLeadEast then .east else .west) then .lead else .follower

/-- What SEAL changes (R263, R278, R311). A command processor that is in reset then has no current copy of the tenant state when it
leaves reset (R284). -/
def State.sealIt (s : State) : State :=
  let s := { s with
    aon := { s.aon with
      sealed := true, leadHalf := s.polLeadEast, policyCrc := s.polCrc, phase := .sealed, epochW := 1, epochE := 1
      roleW := s.sealRole .west, roleE := s.sealRole .east }
    hp := ((List.range s.hp.length).zip s.hp).map fun x =>
      { x.2 with cpHalf := if s.hostExists x.1 then s.hostHome x.1 else .west } }
  let s := [Half.west, Half.east].foldl (fun s h =>
    if s.cfg.hasEast && !s.cpUp h then s.modCp h fun k => { k with current := false } else s) s
  (List.range s.cfg.nCores).foldl (fun s c => if s.domOn c then s.startDom c .off 1 else s) s

def State.seal (s : State) (p : Packet) : State :=
  if s.sealOk then let s := s.sealIt; s.complete p .ok 0 0 s.sealWord else s.complete p .malformed 0 0 0

/-- SEAL. -/
def execSeal (pk : Nat) (s : State) : Out := .next (s.command pk 0x71 s.seal)

end Sys2Proof.Machine
end

