-- ==== Sys2Proof/Machine/Halves.lean ====
section
/-! DEFINITION. The two command processors: the Saddle link, mirrored tenant state, heartbeats, claims to the lead, and a side
that goes off and comes back (R275 to R285, R360). -/

namespace Sys2Proof.Machine

open Host

/-- A command of the Saddle link at half h; a block with one command processor has no link (R275). -/
def linkCmd (s : State) (h : Half) (f : State) : Out := if s.cfg.hasEast && s.hasCp h then .next f else noUnit

/-! ### Orders (R275, R276) -/

/-- An order arrives and takes its place among the core commands of half h. -/
def State.takeOrder (s : State) (h : Half) : State :=
  if s.cpUp h then
    match s.takeMsg h fun m => match m with | .order pk => some pk | _ => none with
    | some (pk, s) =>
      match s.pkt? pk with
      | some p =>
        { s with blk := { s.blk with nextOrd := s.blk.nextOrd + 1 } }.setPkt { p with order2 := some s.blk.nextOrd }
      | none => s
    | none => s
  else s

/-- SADDLE_ORDER. -/
def execSaddleOrder (h : Half) (s : State) : Out := linkCmd s h (s.takeOrder h)

/-- The completion of an order arrives at the command processor that sent it. -/
def State.takeOrderDone (s : State) (h : Half) : State :=
  if s.cpUp h then
    match s.takeMsg h fun m => match m with | .orderDone pk => some pk | _ => none with
    | some (pk, s) => match s.pkt? pk with
      | some p => s.setPkt { p with orderDone := true }
      | none => s
    | none => s
  else s

/-- SADDLE_ORDER_COMPLETION. -/
def execSaddleOrderCompletion (h : Half) (s : State) : Out := linkCmd s h (s.takeOrderDone h)

/-! ### Tenant state (R277) -/

/-- A request arrives at the lead, which applies it and answers, unless the packet has been ended meanwhile; while it deems
the follower silent, a request for a tenant with a core on that side waits for the resolution (R283). -/
def State.takeRequest (s : State) (h : Half) : State :=
  if s.cpUp h ∧ s.role h = .lead then
    match s.takeMsg h fun m => match m with | .request pk => some pk | _ => none with
    | some (pk, s') => match s'.pkt? pk with
      | some p =>
        if s.splitTenant h p.tenant p.acted then s
        else if !p.asked || decide (p.st ≠ PkSt.running) then s'
        else
          let r := s'.tsPart p
          (r.1.setPkt { p with st := .mirror r.1.auth.gen, reply := some r.2 }).post h.other (.answer pk)
      | none => s'
    | none => s
  else s

/-- TENANT_STATE_REQUEST. -/
def execTenantStateRequest (h : Half) (s : State) : Out := linkCmd s h (s.takeRequest h)

/-- Complete a packet whose change the mirror now holds; one that waits for the lead's answer, or for merges of its drains, waits on
(R277). -/
def State.mirrored (s : State) (gen : BitVec 32) (p : Packet) : State :=
  match p.st, p.reply with
  | .mirror g, some r =>
    if g.toNat ≤ gen.toNat ∧ (!p.asked ∨ p.answered) ∧ !(s.follower? && coreOrdered p.opcode && !s.merged p.tenant) then
      s.finish p r.1 r.2
    else s
  | _, _ => s

/-- The lead's answer arrives at the follower, whose mirror must hold the change. -/
def State.takeAnswer (s : State) (h : Half) : State :=
  if s.cpUp h then
    match s.takeMsg h fun m => match m with | .answer pk => some pk | _ => none with
    | some (pk, s) => match s.pkt? pk with
      | some p => (s.setPkt { p with answered := true }).mirrored (s.cp h).ts.gen { p with answered := true }
      | none => s
    | none => s
  else s

/-- TENANT_STATE_ANSWER. -/
def execTenantStateAnswer (h : Half) (s : State) : Out := linkCmd s h (s.takeAnswer h)

/-- A mirror update arrives: the mirror becomes the lead's copy, and what waited for it completes (log entry 20). -/
def State.takeMirror (s : State) (h : Half) : State :=
  if s.cpUp h ∧ s.role h = .follower then
    match s.takeMsg h fun m => match m with | .mirror => some () | _ => none with
    | some (_, s) =>
      let x := (s.cp h.other).ts
      let s := s.modCp h fun k => { k with ts := x, current := true }
      s.blk.pkts.foldl (fun s p => s.mirrored x.gen p) s
    | none => s
  else s

/-- MIRROR_UPDATE. -/
def execMirrorUpdate (h : Half) (s : State) : Out := linkCmd s h (s.takeMirror h)

/-! ### Claims and their resolution (R280 to R283) -/

/-- The epoch of a claim: the larger epoch plus one, at most 0xFFFF. -/
def State.claimEpoch (s : State) : BitVec 16 :=
  BitVec.ofNat 16 (min 0xFFFF (max s.aon.epochW.toNat s.aon.epochE.toNat + 1))

/-- R280 steps 1 to 3. -/
def State.claim (s : State) (h : Half) : State := (s.setEpoch h s.claimEpoch).setRole h .claiming

/-- Packets that wait for an old lead or mirror, under a new lead with generation gen: a change that its copy holds
completes, any other request is made again. -/
def State.afterLead (s : State) (gen : BitVec 32) (p : Packet) : State :=
  match p.st, p.reply with
  | .mirror g, some r =>
    if g.toNat ≤ gen.toNat then s.finish p r.1 r.2
    else s.setPkt { p with st := .running, reply := none, asked := false, answered := false }
  | _, _ => if p.asked then s.setPkt { p with asked := false } else s

/-- A message about tenant state, of no use under a new lead. -/
def Msg.stale : Msg → Bool
  | .request _ | .answer _ | .mirror => true
  | _ => false

/-- A pending log in ascending tenant order. -/
def sortLog (l : List LogEntry) : List LogEntry := (List.range 16).flatMap fun t => l.filter (·.tenant == t)

/-- Apply one entry of a pending log. -/
def TState.apply (x : TState) (e : LogEntry) : TState := { x.modTen e.tenant (·.merge e) with gen := x.gen + 1 }

/-- Half h becomes LEAD (R281 steps 3 to 5): with the copy of higher generation if the other side is up, with the pending
logs applied, and with a mirror update to a follower. -/
def State.lead (s : State) (h : Half) : State :=
  let a := s.cp h
  let b := s.cp h.other
  let x := if s.cpUp h.other && decide (a.ts.gen.toNat < b.ts.gen.toNat) then b.ts else a.ts
  let x := (sortLog (b.log ++ a.log)).foldl TState.apply x
  let s := s.modCp h fun k => { k with ts := x, current := true, log := [] }
  let s := (s.modCp h.other fun k => { k with log := [] }).setRole h .lead
  let s := { s with blk := { s.blk with saddle := s.blk.saddle.filter fun m => !m.2.stale } }
  let s := s.blk.pkts.foldl (fun s p => s.afterLead x.gen p) s
  if s.follower? then s.post h.other .mirror else s

/-- A packet that has been submitted and has not started. -/
def Packet.unstarted (p : Packet) : Bool := decide (p.st = .waiting ∨ p.st = .parked ∨ p.st = .ready)

/-- REDIRECT for every unstarted packet at the ports that half h serves. -/
def State.redirect (s : State) (h : Half) : State :=
  s.blk.pkts.foldl (fun s p =>
    if p.unstarted && decide ((s.hp.getD p.port .reset).cpHalf = h) then s.complete p .redirect 0 0 0 else s) s

/-- R281 steps 1 and 2 for the loser. -/
def State.lose (s : State) (h : Half) : State :=
  ((s.setRole h .follower).setEpoch h (s.epoch h.other)).redirect h

/-- Whether the claim of half h outranks the other's. -/
def State.outranks (s : State) (h : Half) : Bool :=
  let a := (s.epoch h).toNat
  let b := (s.epoch h.other).toNat
  decide (b < a) || (a == b && decide (h = .west))

/-- Both sides hold or claim the lead. -/
def Role.claims (r : Role) : Bool := decide (r = .claiming ∨ r = .lead)

/-- CLAIM_RESOLUTION. -/
def State.resolve (s : State) : State :=
  let w := if s.outranks .west then Half.west else .east
  (s.lose w.other).lead w

/-! ### Heartbeats (R279, R280, R285) -/

/-- saddle_up: both sides have heard the other and neither deems it silent. -/
def State.linkUp (s : State) : State :=
  let ok := fun (h : Half) => s.cpUp h && (s.cp h).heard.isSome && !(s.cp h).silent
  { s with aon := { s.aon with saddleUp := s.cfg.hasEast && ok .west && ok .east } }

/-- A heartbeat. After SEAL one whose role is OFF, since it has left reset and has no role yet, sends none (R279, R285). -/
def State.sendBeat (s : State) (h : Half) : State :=
  if s.cpUp h ∧ (!s.aon.sealed ∨ s.role h ≠ .off) ∧ s.past (s.cp h).sentAt 1 then
    (s.modCp h fun k => { k with sentAt := s.now }).post h.other (.heartbeat (s.role h) (s.epoch h))
  else s

/-- HEARTBEAT_SEND. -/
def execHeartbeatSend (h : Half) (s : State) : Out := linkCmd s h (s.sendBeat h)

/-- What a heartbeat with role r and epoch e makes of the roles, after SEAL. A FOLLOWER adopts the higher epoch of a claim
(log entry 22). -/
def State.onBeat (s : State) (h : Half) (r : Role) (e : BitVec 16) : State :=
  if !s.aon.sealed then s
  else if s.role h = .claiming ∧ r = .follower ∧ e = s.epoch h ∧ s.role h.other = .follower then s.lead h
  else if (s.role h).claims ∧ r.claims ∧ (s.role h.other).claims then s.resolve
  else if s.role h = .follower ∧ r.claims ∧ (s.epoch h).toNat < e.toNat then s.setEpoch h e
  else s

/-- A heartbeat reaches half h. A lead that had deemed its follower silent brings the mirror up to date. -/
def State.takeBeat (s : State) (h : Half) : State :=
  match s.takeMsg h fun m => match m with | .heartbeat r e => some (r, e) | _ => none with
  | none => s
  | some (x, s) =>
    if s.cpUp h then
      let was := (s.cp h).silent
      let s := (s.modCp h fun k => { k with heard := some x, heardAt := s.now, silent := false }).linkUp
      let s := s.onBeat h x.1 x.2
      if was && decide (s.role h = .lead) && s.follower? then s.post h.other .mirror else s
    else s

/-- HEARTBEAT_RECEIVE. -/
def execHeartbeatReceive (h : Half) (s : State) : Out := linkCmd s h (s.takeBeat h)

/-- Packets of half h that wait for the mirror of a side that is no longer present complete. -/
def State.unmirror (s : State) (h : Half) : State :=
  s.blk.pkts.foldl (fun s p => if p.half = h ∧ !p.asked then s.mirrored (s.cp h).ts.gen p else s) s

/-- The power manager reports the command-processor domain of half h off or in reset: the other side deems it OFF (R279). A domain
that sleeps is not off. -/
def State.cpOff (s : State) (h : Half) : Bool :=
  !s.cpUp h && (decide (s.dom (s.domCp h) = .still .off) || decide (s.role h = .off))

/-- Half h deems the other side silent. A follower, and a side that has come back and hears nothing, claims, also where it had deemed
the other side silent before it had a role (R280). -/
def State.deemSilent (s : State) (h : Half) : State :=
  let claims := s.aon.sealed && (decide (s.role h = .follower) || decide (s.role h = .off))
  if s.cpUp h ∧ (claims ∨ !(s.cp h).silent) ∧ s.past (s.cp h).heardAt 16 then
    let s := (s.modCp h fun k => { k with silent := true }).linkUp
    if claims then
      let s := s.claim h
      if s.cpOff h.other then s.lead h else s
    else s.unmirror h
  else s

/-- SILENCE_TIMEOUT. -/
def execSilenceTimeout (h : Half) (s : State) : Out := linkCmd s h (s.deemSilent h)

/-! ### A side that goes off and comes back (R284, R360) -/

/-- A packet outstanding at an adopted port. -/
def State.adopt (s : State) (h : Half) (p : Packet) : State :=
  if (s.hp.getD p.port .reset).cpHalf = h then s
  else if p.unstarted then s.complete p .redirect 0 0 0
  else s.complete p .faultFenced 0 0 0

/-- Held replies of the OFF side's packets (log entry 21). -/
def State.fenceReply (s : State) (h : Half) (r : Reply) : Reply :=
  if (s.hp.getD r.port .reset).cpHalf = h then r else r.fenced

/-- A packet of the remaining side no longer waits for the other. -/
def Packet.alone (p : Packet) : Packet :=
  if p.ordered then { p with order2 := some (p.order2.getD p.order), orderSent := true, orderDone := true } else p

/-- Nothing is left for half h to adopt. -/
def State.adopted (s : State) (h : Half) : Bool :=
  decide (s.role h = .lead) && s.blk.served.all (fun x => decide (x = h)) && s.hp.all fun p => decide (p.cpHalf = h)

def Msg.isMerge : Msg → Bool
  | .merge _ => true
  | _ => false

/-- The other side has gone off: half h leads, serves everything, and ends what the other side had begun; the cores that a BIND or
RELEASE of that side leaves unbound go OFF (R284, R311). -/
def State.otherOff (s : State) (h : Half) : State :=
  let o := h.other
  if !s.aon.sealed || !s.cpUp h || !s.cpOff o || s.adopted h then s
  else
    let s := s.modCp h fun k => { k with silent := true, heard := none }
    let link := (s.blk.saddle.filter fun (m : Half × Msg) => m.2.isMerge).map fun m => (h, m.2)
    let s := State.linkUp { s with blk := { s.blk with saddle := link, replies := s.blk.replies.map (s.fenceReply h) } }
    let ended := s.blk.pkts.filter fun p => decide ((s.hp.getD p.port .reset).cpHalf ≠ h) && !p.unstarted
    let s := s.blk.pkts.foldl (fun s p => s.adopt h p) s
    let s := { s with blk := { s.blk with pkts := s.blk.pkts.map Packet.alone } }
    let s := if decide (s.role h = Role.lead) then s.unmirror h
      else if decide (s.role h = Role.claiming) then s.lead h else (s.claim h).lead h
    let s := ended.foldl State.unpower s
    let s := (List.range s.cfg.nCores).foldl (fun s c =>
      if s.cfg.halfOf c = o ∧ (s.core c).run.state = .running then
        s.modCore c fun k => k.endWith .faultFenced k.run.pc
      else s) s
    { s with
      hp := s.hp.map fun p => { p with cpHalf := h }
      blk := { s.blk with served := s.blk.served.map fun _ => h } }

/-- OTHER_SIDE_OFF. -/
def execOtherSideOff (h : Half) (s : State) : Out := linkCmd s h (s.otherOff h)

/-- A command processor that has come back copies the tenant state from a lead it hears, and becomes FOLLOWER. -/
def State.copyTs (s : State) (h : Half) : State :=
  let o := h.other
  if s.aon.sealed && s.cpUp h && decide (s.role h = .off) && !(s.cp h).silent && decide (s.role o = .lead)
      && decide ((s.cp h).heard.map (·.1) = some Role.lead) then
    let x := (s.cp o).ts
    (((s.modCp h fun k => { k with ts := x, current := true }).setRole h .follower).setEpoch h (s.epoch o))
  else s

/-- TENANT_STATE_COPY. -/
def execTenantStateCopy (h : Half) (s : State) : Out := linkCmd s h (s.copyTs h)

/-- The half that a port belongs to after SEAL (R263, R275). -/
def State.homeOf (s : State) (p : Nat) : Half := if s.hostExists p && s.cfg.hasEast then s.hostHome p else .west

/-- A command processor that is up with a current copy after SEAL. -/
def State.serves (s : State) (h : Half) : Bool :=
  s.aon.sealed && s.cpUp h && (s.cp h).current && decide (s.role h ≠ .off)

def State.takePort (s : State) (p : Nat) (q : HostPort) : State :=
  if s.serves (s.homeOf p) && q.credits == 16 then s.modHp p fun q => { q with cpHalf := s.homeOf p } else s

/-- PORT_TAKEBACK. -/
def execPortTakeback (p : Nat) (s : State) : Out := portCmd s p fun q => s.takePort p q

/-- A packet is executing on core c. -/
def State.busyCore (s : State) (c : Nat) : Bool :=
  s.blk.pkts.any fun p => (decide (p.st = .acting) || decide (p.st = .running)) && p.onCoresNow.contains c

def State.takeCoreBack (s : State) (c : Nat) : State :=
  if s.serves (s.cfg.halfOf c) && !s.busyCore c then
    { s with blk := { s.blk with served := s.blk.served.set c (s.cfg.halfOf c) } }
  else s

/-- CORE_TAKEBACK. -/
def execCoreTakeback (c : Nat) (s : State) : Out := coreCmd s c fun _ => s.takeCoreBack c

/-- What a reset of a command processor leaves in its copy of the tenant state: step state and live half, which nothing but a step
command, RESET_TENANT or a reset of the whole block changes (R286, R287); at generation 0 and not current, it serves only where no
other copy is left (R284, log entry 22). -/
def TState.kept (x : TState) (k : Configuration) : TState :=
  { TState.reset k with tens := x.tens.map fun y =>
      { Tenant.reset with stepOpen := y.stepOpen, stepId := y.stepId, poison := y.poison, live := y.live } }

/-- Reset of a command-processor domain: it is OFF at once, and its state is lost. -/
def State.cpDown (s : State) (h : Half) : State :=
  let s := (s.modCp h fun k =>
    { Cp.reset s.cfg with ts := k.ts.kept s.cfg, current := !(s.aon.sealed && s.cfg.hasEast) }).setDom (s.domCp h) (.still .off)
  (if s.aon.sealed then s.setRole h .off else s).linkUp

/-- Its release: ON after 4 µs. -/
def State.cpRelease (s : State) (h : Half) : State :=
  if s.dom (s.domCp h) = .still .off then s.startDom (s.domCp h) .on 4 else s

def State.setCpPin (s : State) (h : Half) (low : Bool) : State :=
  match h with
  | .west => { s with pins := { s.pins with cpwLow := low } }
  | .east => { s with pins := { s.pins with cpeLow := low } }

/-- CP_RESET: its reset input falls or rises; while blk_rst_n is low that reset governs (R361). -/
def execCpReset (h : Half) (low : Bool) (s : State) : Out :=
  halfCmd s h (let t := s.setCpPin h low
    if s.pins.blkRstLow then t else if low then t.cpDown h else t.cpRelease h)

end Sys2Proof.Machine
end

