-- ==== Sys2Proof/Machine/Power.lean ====
section
/-! DEFINITION. The power manager, supply requests, sensors, power domains, sleep and wake, and the comparators of the
always-on domain (R309 to R323, R329). -/

namespace Sys2Proof.Machine

open Host

def State.modPower (s : State) (f : Power → Power) : State := { s with aon := { s.aon with power := f s.aon.power } }

/-! ### The power ceiling (R309, R313 to R317) -/

/-- Move the supply request one code towards a goal; one request at a time (R309). -/
def Power.toward (p : Power) (goal : Nat) : Power :=
  if p.request || goal == p.vreq.toNat then p
  else { p with request := true, vreq := BitVec.ofNat 7 (if p.vreq.toNat < goal then p.vreq.toNat + 1 else p.vreq.toNat - 1) }

/-- The supply code that the floor and vmax clauses ask for. -/
def Power.bounded (p : Power) : Nat := min p.vmax.toNat (max p.floor.toNat p.vreq.toNat)

/-- What limited a window (log entry 23). -/
def Power.limited (p : Power) (watts : Nat) : BitVec 2 :=
  if p.trip then 2
  else if p.ceiling.toNat < watts then 1
  else if p.tjLimit.toNat < p.hotCode.toNat then 2
  else if p.calm.any (! ·) then 1
  else if p.tjLimit.toNat ≤ p.hotCode.toNat + 8 then 2
  else if p.gate = 0 ∧ p.vmax.toNat ≤ p.vreq.toNat then 3
  else 0

/-- CONTROL_WINDOW of R314 with estimate `watts`, while no trip stands. -/
def Power.control (p : Power) (watts : Nat) : Power :=
  let v := p.bounded
  let high := decide (p.ceiling.toNat < watts) || decide (p.tjLimit.toNat < p.hotCode.toNat)
  if high then
    if p.floor.toNat < v then p.toward (v - 1)
    else (if p.gate.toNat < 15 then { p with gate := p.gate + 1 } else p).toward v
  else if p.calm.length = 8 ∧ p.calm.all id ∧ p.hotCode.toNat + 8 < p.tjLimit.toNat then
    if 0 < p.gate.toNat then ({ p with gate := p.gate - 1 }).toward v
    else if v < p.vmax.toNat ∧ !p.request ∧ v = p.vreq.toNat then p.toward (v + 1)
    else p.toward v
  else p.toward v

/-- One window: the estimate, the record of calm windows, then the procedure; under a trip the supply goes to the floor
(R317). -/
def Power.window (p : Power) (watts now : Nat) : Power :=
  let p := { p with est := BitVec.ofNat 16 (min 0xFFFF watts), windowAt := now
                    calm := (decide (100 * watts < 97 * p.ceiling.toNat) :: p.calm).take 8 }
  let q := if p.trip then { p with gate := 15 }.toward p.floor.toNat else p.control watts
  { q with limit := p.limited watts }

/-- A window of the power manager, whenever the lead command processor that holds it is up. -/
def State.controlWindow (s : State) (watts : Nat) : State :=
  if s.cpUp s.leadHalf ∧ s.past s.aon.power.windowAt 1 then
    s.modPower fun p => p.window watts s.now
  else s

/-- CONTROL_WINDOW. -/
def execControlWindow (watts : Nat) (s : State) : Out := .next (s.controlWindow watts)

/-! ### Sensors (R317, R323) -/

/-- The hottest of the codes and the first site that reads it. -/
def hottest (codes : List Nat) : Nat × Nat :=
  let m := codes.foldl max 0
  (m, codes.findIdx (· == m))

/-- A sample: the hottest site, the trip, and what a trip does, which is nothing in reset (R363); `up` where the block does not
sleep. -/
def Power.sample (p : Power) (hot site : Nat) (up low : Bool) : Power :=
  let p := { p with hotCode := BitVec.ofNat 10 hot, hotSite := BitVec.ofNat 6 site
                    trip := decide (756 ≤ hot) || (p.trip && decide (716 ≤ hot)) }
  if !p.trip || low then p
  else
    let p := { p with gate := 15 }
    if up then p.toward p.floor.toNat else p

/-- A sample of the 64 sites (R317): the trip at 125 °C, its release below 115 °C, and the thermal comparator. -/
def State.sensorSample (s : State) (codes : List Nat) : State :=
  if s.past s.aon.sampledAt (if s.aon.asleep then 1000 else 10) then
    let codes := (List.range 64).map fun i => codes.getD i 0 % 1024
    let hot := hottest codes
    let s := s.modPower fun p => p.sample hot.1 hot.2 (decide (s.aon.sleep ≠ .asleep)) s.pins.blkRstLow
    let s := { s with aon := { s.aon with sensors := codes, sampledAt := s.now } }
    let th := s.aon.therm.toNat
    if s.aon.thermArmed && decide (th ≤ hot.1) then
      { s with aon := { s.aon with thermArmed := false } }.setCause 1
    else if hot.1 + 8 ≤ th then { s with aon := { s.aon with thermArmed := true } }
    else s
  else s

/-- SENSOR_SAMPLE. -/
def execSensorSample (codes : List Nat) (s : State) : Out := .next (s.sensorSample codes)

/-! ### Power domains (R311, R312) -/

/-- An instant has been reached; the counter wraps at 2^56. -/
def State.reached (s : State) (due : Nat) : Bool := decide (s.since due < 2 ^ 55)

/-- Every acknowledge of an active group has been taken back (R320). -/
def State.groupsBack (s : State) : Bool :=
  (List.range s.cfg.nGroups).all fun g => s.dom (s.domGroup g) = .still .off || !(s.seen.memSleepAck.getD g false)

/-- A command processor that has come ON: its silence timer starts; where it is the only one it holds the lead (R275). -/
def State.cpOn (s : State) (h : Half) : State :=
  let t := if s.timersHeld then 0 else s.now
  let s := s.modCp h fun k => if k.heard.isNone then { k with heardAt := t, sentAt := t } else k
  if s.aon.sealed && !s.cfg.hasEast then s.setRole .west .lead else s

/-- What arriving at a resting state does. -/
def State.arrive (s : State) (d : Nat) (goal : Rest) : State :=
  let s := s.setDom d (.still goal)
  if d < s.cfg.nCores then (if goal = .off then s.modCore d Core.poweredOff else s)
  else if goal = .on ∧ d = s.domCp .west then s.cpOn .west
  else if goal = .on ∧ s.cfg.hasEast ∧ d = s.domCp .east then s.cpOn .east
  else s

/-- Half microseconds from the wake event until the last set of cores is ON. -/
def State.lastSet (s : State) : Nat := 8 + (s.cfg.nCores - 1) / 8

/-- Half microseconds from the wake event until domain d leaves RETAIN: the command processors and the Valley network at once, the
cores in sets of 8 from 2 µs on, the port groups to be ON with the last set (R311, R320; log entry 24). -/
def State.leaves (s : State) (d : Nat) : Nat :=
  if d < s.cfg.nCores then 4 + d / 8
  else if d < s.domAon ∨ d = s.domValley then 0
  else s.lastSet - 4

/-- An instant in half microseconds after time t. -/
def State.halvesAfter (s : State) (t halves : Nat) : Nat := (t + s.ticksNs (500 * halves)) % 2 ^ 56

/-- A domain leaves RETAIN when its turn in the wake sequence has come, and reaches its rest when its time is over and, for a port
group that comes ON, every acknowledge has been taken back, which is not awaited once an entry has begun anew (log entry 24). -/
def State.domainTransition (s : State) (d : Nat) : State :=
  match s.dom d, s.aon.sleep with
  | .changing goal due, _ =>
    if s.reached due && (decide (d ≤ s.domAon) || d == s.domValley || decide (goal ≠ .on) || s.groupsBack
        || decide (s.aon.sleep = .entering)) then
      s.arrive d goal
    else s
  | .still .retain, .waking t =>
    if s.reached (s.halvesAfter t (s.leaves d)) then s.setDom d (.changing .on (s.halvesAfter t (s.leaves d + 4))) else s
  | _, _ => s

/-- DOMAIN_TRANSITION. -/
def execDomainTransition (d : Nat) (s : State) : Out :=
  if d < s.cfg.nDoms then .next (s.domainTransition d) else noUnit

/-! ### Sleep and wake (R318 to R320) -/

/-- The fall of pwr_sleep_req: before the acknowledge it abandons the entry, and it wakes a sleeping block. -/
def State.sleepReqFall (s : State) : State :=
  if s.aon.sleep = .asleep then { s with aon := { s.aon with wakeHit := true } } else s.abandonSleep

/-- PWR_SLEEP_REQ: the level of pwr_sleep_req, which the block does not see under WS_INTEST (R371). -/
def execPwrSleepReq (level : Bool) (s : State) : Out :=
  let s := { s with pins := { s.pins with sleepReq := level } }
  .next (if level || s.intest then s else s.sleepReqFall)

/-- MEM_SLEEP_ACK: the level of mem_sleep_ack of group g. -/
def execMemSleepAck (g : Nat) (level : Bool) (s : State) : Out :=
  if g < s.cfg.nGroups then
    .next { s with pins := { s.pins with memSleepAck := s.pins.memSleepAck.set g level } }
  else noUnit

/-- The conditions of sleep entry, which is taken in phase SEALED (R318, R320, R361). -/
def State.maySleep (s : State) : Bool :=
  s.aon.sealed && s.seen.sleepReq && s.hp.all (fun h => h.credits == 16 && h.asm.isEmpty)
    && s.blk.cores.all (fun k => decide (k.run.state ≠ .running)) && s.blk.survey.isNone && decide (s.aon.cause = 0)
    && !s.aon.surveyDue

/-- Outstanding lines are finished and every active group's stacks hold their contents. -/
def State.stacksHold (s : State) : Bool :=
  s.linesIdle && (List.range s.cfg.nGroups).all fun g => s.dom (s.domGroup g) = .still .off || s.seen.memSleepAck.getD g false

/-- Every ON domain but the always-on domain starts to RETAIN. -/
def State.retainOn (s : State) : State :=
  (List.range s.cfg.nDoms).foldl (fun s d => if s.domOn d && d != s.domAon then s.startDom d .retain 1 else s) s

/-- The same at step 3 of the entry: the outputs of the port groups keep what they drive (R362). -/
def State.retainAll (s : State) : State := s.keepHeld.holdTimers.retainOn

/-- Every domain but the always-on domain rests in OFF or RETAIN. -/
def State.retained (s : State) : Bool :=
  (List.range s.cfg.nDoms).all fun d => d == s.domAon || s.dom d = .still .off || s.dom d = .still .retain

/-- Step 1 to 4 of R318; a domain that comes ON after step 3 goes to RETAIN too, and a Valley network that is on its way back from
an entry abandoned before is awaited (log entry 24). -/
def State.sleepEntry (s : State) : State :=
  match s.aon.sleep with
  | .awake => if s.maySleep then { s with aon := { s.aon with sleep := .entering } } else s
  | .entering =>
    if s.aon.cause ≠ 0 then s.abandonSleep
    else if s.valleyAway then
      (if s.retained then { s with aon := { s.aon with sleep := .asleep, asleep := true } } else s.retainOn)
    else if s.domOn s.domValley && s.stacksHold then s.retainAll
    else s
  | .asleep => s.retainOn
  | .waking _ => s

/-- SLEEP_ENTRY. -/
def execSleepEntry (s : State) : Out := .next s.sleepEntry

/-- The wake event: the supply is requested at the code held, and the domains that leave RETAIN at once start (R320). -/
def State.wakeUp (s : State) : State :=
  let s := { s with aon := { s.aon with sleep := .waking s.now, wakeHit := false } }.modPower fun p => { p with request := true }
  let s := s.resumeTimers
  (List.range s.cfg.nDoms).foldl (fun s d =>
    if s.dom d = .still .retain ∧ s.leaves d = 0 then s.setDom d (.changing .on (s.halvesAfter s.now 4)) else s) s

/-- Every domain rests in OFF or ON. -/
def State.allBack (s : State) : Bool :=
  (List.range s.cfg.nDoms).all fun d => s.dom d = .still .off || s.dom d = .still .on

def State.wake (s : State) : State :=
  match s.aon.sleep with
  | .asleep => if !s.seen.sleepReq || s.aon.wakeHit then s.wakeUp else s
  | .waking _ => if s.allBack then { s with aon := { s.aon with sleep := .awake, asleep := false } } else s
  | _ => s

/-- WAKE. -/
def execWake (s : State) : Out := .next s.wake

/-! ### Time and comparators (R321, R323) -/

/-- AON_TIME_TICK: one rising edge of the reference; what has fired or been written in the tick before is of that tick (R323). -/
def execAonTimeTick (s : State) : Out :=
  let busy := s.blk.cores.any fun k => decide (k.run.state = .running)
  .next { s with aon := { s.aon with
    time := s.aon.time + 1, firedNow := 0, armedNow := false
    busy := if busy then BitVec.ofNat 40 (satAdd 40 s.aon.busy.toNat 1) else s.aon.busy } }

/-- TIME_COMPARATOR; after a write of AON_ALARM it fires from the next tick on (R323). -/
def execTimeComparator (s : State) : Out :=
  .next (if s.aon.armed && !s.aon.armedNow && decide (s.aon.alarm.toNat ≤ s.now) then
    { s with aon := { s.aon with armed := false } }.setCause 0
  else s)

/-- HOST_WAKE: the level of host_wake, which the block does not see under WS_INTEST (R371). -/
def execHostWake (level : Bool) (s : State) : Out :=
  let s := { s with pins := { s.pins with hostWake := level } }
  .next (if level && !s.intest then s.setCause 2 else s)

end Sys2Proof.Machine
end

