-- ==== Sys2Proof/Machine/Repair.lean ====
section
/-! DEFINITION. Detections, replays, defects and their repair, fences, reserve cores, uncorrectable data, scrubs, store lines
and memory ports (R85, R90, R95, R120, R121, R179, R210 to R217, R232, R235, R326, R331 to R346, R355, R356, R377). -/

namespace Sys2Proof.Machine

open Host

/-- Insert into a rising list. -/
def insertAsc (x : Nat) : List Nat → List Nat
  | [] => [x]
  | y :: t => if x < y then x :: y :: t else if x = y then y :: t else y :: insertAsc x t

/-! ### The repair log (R335, R344, R346) -/

/-- A repair record with its check byte. -/
def repairRecord (kind core eng target spare : Nat) : Word :=
  let w := put 63 60 kind + put 58 54 core + put 53 52 eng + put 39 20 target + put 19 8 spare
  word (w + (((List.range 7).map fun i => w >>> (8 * i + 8) % 256).foldl (· ^^^ ·) 0))

/-- Write a record into the log, or set overflow. -/
def State.logRepair (s : State) (w : Word) : State :=
  s.modFuses fun f => if f.log.length < 32 then { f with log := f.log ++ [w] } else { f with overflow := true }

/-! ### Ending a program at a fence (R194, R212) -/

/-- The core's program, if one runs, ends with FAULT_FENCED at once. -/
def State.fenceProgram (s : State) (c idx : Nat) : State :=
  let k := s.core c
  if k.run.state = .running then s.coreDone c k Status.faultFenced.code idx else s

/-- The decode check of the loaded image under the new map (R212). -/
def State.recheck (s : State) (c : Nat) : State :=
  let k := s.core c
  if k.img.instrs.isEmpty || decide (k.run.state = .empty) then s
  else match checkImage s.cfg c s.blk.cores k.img with
    | none => s
    | some e =>
      let st := BitVec.ofNat 8 e.status.code
      s.setCore c { k with run := { k.run with
        state := .empty, unloaded := st, status := st, failIdx := if e.section_ = 3 then e.index else 0 } }

/-- The tenant that a core is bound to, by the authoritative copy and the BINDs that have taken cores since. -/
def State.tenantOf (s : State) (c : Nat) : Option Nat := s.bindIn s.auth c

/-- The health interrupt of a fence (R341). -/
def State.fenceIrq (s : State) (c : Nat) : State :=
  match s.tenantOf c with
  | some t => s.healthIrq t
  | none => s

/-! ### Reserve cores (R343) -/

/-- A core that recovery may take: reserve, unbound, not fenced and not taken already. -/
def State.isSpareCore (s : State) (c : Nat) : Bool :=
  s.polReserve.testBit c && (s.tenantOf c).isNone && !(s.core c).rep.coreFenced && !(s.blk.recover.any (·.1 == c))

/-- The reserve core for fenced core c: of its kind, in its half first, the lowest number first. -/
def State.reserveFor (s : State) (c : Nat) : Option Nat :=
  let l := (List.range s.cfg.nCores).filter fun r => s.isSpareCore r && isCol r == isCol c
  (l.find? fun r => decide (s.cfg.halfOf r = s.cfg.halfOf c)).or l.head?

/-- Take a reserve core for the tenant of fenced core c, and power it up (R311). -/
def State.recoverCore (s : State) (c : Nat) : State :=
  match s.tenantOf c with
  | none => s
  | some t =>
    if !s.aon.sealed then s
    else match s.reserveFor c with
      | none => s
      | some r =>
        let s := { s with blk := { s.blk with recover := s.blk.recover ++ [(r, t)] } }
        if s.dom r = .still .off then s.startDom r .on 8 else s

/-- A reserve core that is ON and waits for its binding: steps 4 to 6 of R267, made by the lead where it may change the bindings of
the tenant now (R283). -/
def State.bindReserve (s : State) (c : Nat) : State :=
  match s.blk.recover.find? (·.1 == c) with
  | some (_, t) =>
    if s.dom c = .still .off then s.startDom c .on 8
    else if s.domOn c && s.cpUp s.leadHalf && !s.splitTenant s.leadHalf t [c] then
      let s := { s with blk := { s.blk with recover := s.blk.recover.filter (·.1 != c) } }
      (s.modCore c Core.recycled).changeTs fun x => { x.setBind c (some t) with recov := x.recov ++ [c] }
    else s
  | none => s

/-- RESERVE_CORE_BINDING. -/
def execReserveCoreBinding (c : Nat) (s : State) : Out := coreCmd s c fun _ => s.bindReserve c

/-! ### Fences and exclusions (R95, R210 to R212, R220, R341, R342) -/

/-- Every FILL_PAGES with a page on its way into core c fails, in the order of submission (R244, R342). -/
def State.failPages (s : State) (c : Nat) : State :=
  (((s.core c).plain.fills.filterMap (·.pk)).foldl (fun l pk => insertAsc pk l) []).foldl (fun s pk =>
    match s.pkt? pk with
    | some p => (s.dropFills fun f => decide (f.pk = some pk)).complete p .faultFenced 4 (1 <<< c) 0
    | none => s) s

/-- Fence a whole core, at once (R341, R342, R343). -/
def State.fenceCore (s : State) (c idx : Nat) : State :=
  if (s.core c).rep.coreFenced then s
  else
    let s := s.modCore c fun k => { k with rep := { k.rep with coreFenced := true } }
    let s := ((s.fenceProgram c idx).failPages c).modCore c fun k => { k with
      flight := []
      plain := k.plain.keepFills fun _ => false
      rep := { k.rep with
        mapEpoch := k.rep.mapEpoch + 1, stopped := [], replaying := [], defect := []
        tapPending := false, remap := [] } }
    let s := { s with blk := { s.blk with
      tapsDue := s.blk.tapsDue.filter (fun e => decide (e.1 / 16 ≠ c)), recover := s.blk.recover.filter (·.1 != c) } }
    let s := ((s.logRepair (repairRecord 6 c 0 0 0)).fenceIrq c).recoverCore c
    if s.domOn c then s.startDom c .off 1 else s

/-- ACCUMULATING slots of physical engine e become DIRTY. -/
def Core.dirtySlots (k : Core) (e : Nat) : Core :=
  { k with slots := k.slots.mapIdx fun i x => if i / 2 = e ∧ x.st = .acc then { x with st := .dirty } else x }

/-- Every row set becomes DIRTY (R121, R341). -/
def Core.dirtyRows (k : Core) : Core :=
  { k with plain := { k.plain with sets := k.plain.sets.map fun x => { x with dirty := true } } }

/-- One more change of engine e's map. -/
def Repair.bump (r : Repair) (e : Nat) : Repair := { r with epochs := r.epochs.modify e (· + 1) }

/-- Fence one engine at a boundary; where another engine of the core is fenced already, the core (log entry 25). -/
def State.fenceEngine (s : State) (c e idx : Nat) : State :=
  let r := (s.core c).rep
  if r.fenced.toNat.testBit e then s
  else if r.fenced ≠ 0 then s.fenceCore c idx
  else
    let s := (s.fenceProgram c idx).modCore c fun k =>
      let k := { k with rep := { k.rep with
        fenced := k.rep.fenced ||| BitVec.ofNat 4 (1 <<< e), mapEpoch := k.rep.mapEpoch + 1, stopped := [], replaying := [] } }
      if isCol c then { k.dirtySlots e with rep := k.rep.bump (1 - e) } else k.dirtyRows
    ((s.logRepair (repairRecord 5 c e 0 0)).fenceIrq c).recheck c

/-- Exclude a physical column of engine e (R95). -/
def State.excludeCol (s : State) (c e p idx : Nat) : State :=
  if ((s.core c).rep.colsEx.getD e []).contains p then s
  else
    let s := (s.fenceProgram c idx).modCore c fun k =>
      { k.dirtySlots e with rep := ({ k.rep with
          colsEx := k.rep.colsEx.modify e (insertAsc p), stopped := [], replaying := [] } : Repair).bump e }
    (s.logRepair (repairRecord 2 c e p 0)).recheck c

/-- Exclude a physical row of both engines (R95, R220). -/
def State.excludeRow (s : State) (c p idx : Nat) : State :=
  if (s.core c).rep.rowsEx.contains p then s
  else
    let s := (s.fenceProgram c idx).modCore c fun k =>
      { (k.dirtySlots 0).dirtySlots 1 with rep := (({ k.rep with
          rowsEx := insertAsc p k.rep.rowsEx, stopped := [], replaying := [] } : Repair).bump 0).bump 1 }
    (s.logRepair (repairRecord 1 c 0 p 0)).recheck c

/-- A spare column of engine e remains. -/
def Core.colSpare (k : Core) (e : Nat) : Bool := decide ((k.rep.colsEx.getD e []).length < 4)

/-- A spare row remains. -/
def Core.rowSpare (k : Core) : Bool := decide (k.rep.rowsEx.length < 4)

/-- The lowest of n spares that is not in use. -/
def freeSpare (n : Nat) (used : List (Nat × Nat)) : Option Nat := (List.range n).find? fun i => !(used.any (·.2 == i))

/-- Re-fill slots of the plane from the records whose sources can be read; a source that is lost, or that the stack flags, is
uncorrectable data for the program (R121, R336). -/
def State.refillSlots (s : State) (c idx : Nat) (recs : List (Nat × Word × Word)) : State :=
  let ok := recs.filter fun r => !s.refillLost (s.core c) [r]
  let s := s.modCore c fun k => (s.refillFrom k ok).rereadOver recs
  if ok.length < recs.length then s.endCore c idx .faultFenced else s

/-- Steer a physical plane row to a spare (R334 case 3); the slots are re-filled. -/
def State.steerRow (s : State) (c p spare idx : Nat) : State :=
  let s := s.modCore c fun k =>
    { k with rep := { k.rep with planeSpare := (k.rep.planeSpare.filter (·.1 != p)) ++ [(p, spare)] } }
  (s.refillSlots c idx (s.core c).plain.recs).logRepair (repairRecord 3 c 0 p spare)

/-! ### Detections (R333, R341, R377) -/

/-- The physical place that a detection names: of a Col lane the engine, row and column, whichever check has found it (R331). -/
def placeKey : Place → Place
  | .colLane e r p _ => .colLane e r p false
  | pl => pl

/-- Whether a detection at a place is recurrent (R333). -/
def State.recurs (s : State) (k : Core) (pl : Place) : Bool :=
  (match k.rep.lastDet with
    | some (q, t) => decide (placeKey q = placeKey pl) && decide (s.since t ≤ s.ticks 1000000)
    | none => false)
  || k.rep.replaying.any fun e => (e.2.map placeKey) == some (placeKey pl)

/-- The same for a fault in the instruction at index `idx`: any fault after three replays of it marks its place (R333). -/
def State.recurrent (s : State) (k : Core) (pl : Place) (idx : Nat) : Bool :=
  s.recurs k pl || decide (3 ≤ (k.rep.replays.filter (· == idx)).length)

/-- Record a detection. -/
def State.detect (s : State) (k : Core) (pl : Place) : Core := { k with rep := { k.rep with lastDet := some (pl, s.now) } }

/-- Another engine of the core is fenced already, so that a fence of engine e takes the core (log entry 25). -/
def Core.lastEngine (k : Core) (e : Nat) : Bool := decide (k.rep.fenced ≠ 0) && !k.rep.fenced.toNat.testBit e

/-- Whether a repair is the fence of the core, which waits for no boundary (R334, R341). -/
def Core.fixFences (k : Core) : Fix → Bool
  | .place (.unit _) | .place (.fillHalf _) => true
  | .place (.planeRow _) => (freeSpare 8 k.rep.planeSpare).isNone
  | .place (.plainMul e _) => (freeSpare 8 k.rep.planeSpare).isNone && k.lastEngine e
  | .place (.tree e) => k.lastEngine e
  | .place (.colLane e _ _ _) | .place (.basin e _ _) => !k.colSpare e && !k.rowSpare && k.lastEngine e
  | .place (.line _) | .place (.image _) => false
  | .column e _ => !k.colSpare e && k.lastEngine e
  | .engine e => k.lastEngine e

/-- The engine of a place in an array; none elsewhere. -/
def engOf : Place → Option Nat
  | .colLane e _ _ _ => some e
  | .basin e _ _ => some e
  | .plainMul e _ => some e
  | .tree e => some e
  | .planeRow _ | .unit _ | .fillHalf _ | .line _ | .image _ => none

/-- Slots of a pass become DIRTY. -/
def Core.dirty (k : Core) (slots : List Nat) : Core :=
  slots.foldl (fun k i => if (k.slot i).st = .acc then k.setSlot i { k.slot i with st := .dirty } else k) k

/-- What flight f leaves DIRTY when it stops. -/
def Core.stopFlight (k : Core) (f : Flight) : Core :=
  match f.work with
  | .colPass es ts _ _ _ => k.dirty (k.passSlots es ts)
  | .plainPass row tree _ _ _ _ _ => k.dirtySet tree row
  | .refill _ i _ _ _ => k.dirty [i]
  | _ => k

/-- Whether a flight is a pass on a physical engine. -/
def Core.passOn (k : Core) (e : Option Nat) (f : Flight) : Bool :=
  match f.work, e with
  | .colPass es _ _ _ _, some e => es.any fun x => k.physEng x == e
  | .plainPass _ _ _ _ _ _ _, some _ => true
  | _, _ => false

/-- A spare plane row remains for a place that one replaces. -/
def Core.steers (k : Core) (pl : Place) : Bool :=
  match pl with
  | .plainMul _ _ | .planeRow _ => (freeSpare 8 k.rep.planeSpare).isSome
  | _ => false

/-- Instructions in flight that a predicate names end with their slots or rows DIRTY; none of them is replayed. -/
def Core.stopAll (k : Core) (gone : Flight → Bool) : Core :=
  let ids := (k.flight.filter gone).map (·.id)
  let k := (k.flight.filter gone).foldl Core.stopFlight k
  { k with
    flight := k.flight.filter fun g => !gone g
    rep := { k.rep with
      stopped := k.rep.stopped.filter fun e => !ids.contains e.1, replaying := k.rep.replaying.filter fun e => !ids.contains e.1 } }

/-- From the moment a place is marked as a defect every pass in flight on its engine stops, unless a spare plane row replaces it
(R85, R334, R341). -/
def Core.stopFor (k : Core) : Fix → Core
  | .place pl => if k.steers pl then k else k.stopAll (k.passOn (engOf pl))
  | .column _ _ | .engine _ => k

/-- A place is marked as a defect: its repair waits for the boundary, but for the fence of the core (R333, R341). -/
def State.markDefect (s : State) (c : Nat) (k : Core) (fix : Fix) (idx : Nat) : State :=
  if k.fixFences fix then (s.setCore c k).fenceCore c idx
  else
    let k' := k.stopFor fix
    (s.leavePoison c k (k.flight.filter fun f => (k'.flight? f.id).isNone)).setCore c
      { k' with rep := { k'.rep with defect := k'.rep.defect ++ [(fix, idx)] } }

/-- Instruction f stops, with the rest of its operands discarded: its replay is due (R377). -/
def Core.awaitReplay (k : Core) (f : Nat) (pl : Place) : Core :=
  { k with
    flight := k.flight.map fun g => if g.id = f then g.withBeats 0 else g
    rep := { k.rep with
      stopped := (k.rep.stopped.filter (·.1 != f)) ++ [(f, some pl)], replaying := k.rep.replaying.filter (·.1 != f) } }

/-- Stop a pass or a refill: its replay is due, or its place is marked as a defect, and then every pass on the engine stops with
it (R341, R377). Other stopped instructions keep waiting. -/
def State.stopPass (s : State) (c : Nat) (k : Core) (f : Flight) (pl : Place) : State :=
  let again := s.recurrent k pl f.idx
  let k := (s.detect k pl).stopFlight f
  if !again then s.setCore c (k.awaitReplay f.id pl)
  else if k.steers pl then s.markDefect c (k.awaitReplay f.id pl) (.place pl) f.idx
  else (s.leavePoison c k [f]).markDefect c (k.stopAll fun g => g.id == f.id) (.place pl) f.idx

/-- The detection of a fault in pass f of core c. -/
def State.passFault (s : State) (c f : Nat) (pl : Place) (k : Core) : State :=
  match k.flight? f with
  | some x =>
    if k.isStopped f || k.rep.coreFenced then s
    else match x.work with
      | .colPass _ _ _ _ _ | .plainPass _ _ _ _ _ _ _ => s.stopPass c k x pl
      | _ => s
  | none => s

/-- PASS_FAULT. -/
def execPassFault (c f : Nat) (pl : Place) (s : State) : Out := coreCmd s c (s.passFault c f pl)

/-- A bit of the plane flips, where an upset names one. -/
def Core.upset (k : Core) : Option Nat → Core
  | some b => { k with plain := k.plain.flip (b % 2 ^ 28) }
  | none => k

/-- Pass f has read bad parity in its page, at its start or, where an upset comes later, while it multiplies: that is counted, the
slots of the page whose parity is bad still are re-filled from their records, and the pass stops with a fault at the physical row
(R119, R121). A record whose source cannot be read ends the program (R336). Another pass under way on the page has read it before
the upset, unless a PLANE_PARITY_FAULT of its own says otherwise. -/
def State.planeFault (s : State) (c f : Nat) (up : Option Nat) (prow : Nat) (k : Core) : State :=
  match k.flight? f with
  | some ⟨id, idx, .plainPass row tree cls page beats poison bad⟩ =>
    if k.isStopped f || k.rep.coreFenced then s
    else
      let k := k.upset up
      if !(bad || (decide (0 < beats) && k.plain.pageBad cls page)) then s.setCore c k
      else
        let f' : Flight := ⟨id, idx, .plainPass row tree cls page beats poison false⟩
        let k := { k.setFlight f' with planePar := bump16 k.planePar }
        let slots := (pageSlots cls page).filter k.plain.parityBad
        let recs := k.plain.recs.filter fun e => slots.contains e.1
        if s.refillLost k recs then s.badPass c f none (k.rereadOver recs)
        else s.stopPass c (s.refillFrom k recs) f' (.planeRow prow)
  | _ => s

/-- PLANE_PARITY_FAULT. -/
def execPlaneParityFault (c f : Nat) (up : Option Nat) (prow : Nat) (s : State) : Out := coreCmd s c (s.planeFault c f up prow)

/-! ### Replay (R90, R121, R377) -/

/-- A slot as its origin set it. -/
def Slot.origin (x : Slot) : Slot :=
  let y := { x with st := .acc, kDone := 0, exc := 0, cap := 0, acc := List.replicate (x.mExt * x.nExt) 0 }
  match x.org with
  | some (kd, exc, cap, acc) => { y with kDone := kd, exc := exc, cap := cap, acc := acc }
  | none => y

/-- Replay the tag of a DIRTY slot: from its origin, every pass in order. What a pass adds whose inputs have changed since its first
execution, and what a record holds that has changed, is undefined (R90): free from free value n on (log entry 8). The rules
do not say what becomes of a pass into the same slot that had started after the stopped one: it stays in flight, may retire at any
time, and is executed again within the replay, as every pass recorded for the tag (DESIGN CHOICE, unsafe, log entry 29). -/
def Core.replaySlot (c n : Nat) (k : Core) (i : Nat) : Core :=
  let x := k.slot i
  if x.st = .dirty then
    let k := x.passes.foldl (fun k p => k.runPass c i x.eng p) (k.setSlot i x.origin)
    k.setSlot i (x.passes.foldl (fun y p => p.blur (n + slotFree * i) y) ((k.slot i).blurStale (n + slotFree * i)))
  else k

/-- The rows of a row set as their origin set them. -/
def Core.rowOrigin (k : Core) (x : RowSet) : Core :=
  match x.org with
  | none => k.openRows x.tree x.row x.vecMax
  | some (codes, excs, _) =>
    let w := rowWidth x.tree
    (List.range x.vecMax).foldl (fun k i =>
      ((List.range w).foldl (fun k n => k.wrRow x.tree (i % 4) (x.row + i / 4) n (codes.getD (w * i + n) 0)) k).wrExc
        x.tree (i % 4) (x.row + i / 4) (excs.getD i (0, 0))) k

/-- Reduction extents that a row set had added when its replay's origin stood (R145). -/
def RowSet.originSum (x : RowSet) : Nat := (x.org.map (·.2.2)).getD 0

/-- Replay a DIRTY row set: each pass over the pages that it read, re-filled from their records of that time; at the end the
slots hold their present pages again. Rows that a pass over changed bytes of the store adds into are undefined (R121): free from
s.free on. A page whose source in the fabric has changed since is read as it stands there (DESIGN CHOICE, unsafe, log entry 8). -/
def State.replayRows (s : State) (c : Nat) (k : Core) (x : RowSet) : Core :=
  if !x.dirty then k
  else
    let now := k.plain.recs
    let r := x.passes.foldl (fun (a : Core × Nat) p =>
      ((s.refillFrom a.1 p.recs).runPlain c p x.tree x.sat a.2, a.2 + redExt x.tree)) (k.rowOrigin x, x.originSum)
    let k := (s.refillFrom r.1 (now.filter fun e => x.passes.any fun p => p.recs.any (·.1 == e.1))).setRowSet { x with dirty := false }
    x.passes.foldl (fun k p => k.blurRows x p s.free) k

/-- Insert a recorded pass into a list that rises by number, once. -/
def insertRec (r : PassRec) : List PassRec → List PassRec
  | [] => [r]
  | x :: t => if r.id < x.id then r :: x :: t else if r.id = x.id then x :: t else x :: insertRec r t

/-- Beats of a replayed instruction: those in which some lane multiplies while every pass from the origin runs again in program
order, Col passes overlapping one another as R78 has it, Plain passes one after another (R77, R78, R111, R315, R377). -/
def Core.replayBeats (k : Core) (w : Work) : Work :=
  match w with
  | .colPass es ts wide _ p =>
    let rs := ((k.passSlots es ts).flatMap fun i => (k.slot i).passes).foldl (fun l r => insertRec r l) []
    .colPass es ts wide (k.rowBeats (rs.map (·.ti))) p
  | .plainPass row tree cls page _ p _ =>
    let n := ((k.rowSet? tree row).map fun x => x.passes.foldl (fun n q => n + k.dwell q.ti q.vecs.length) 0).getD 0
    .plainPass row tree cls page n p false
  | w => w

/-- The replay of one stopped instruction, from the origin of its tag or row set; a page whose source cannot be read any more
ends the program (R90, R121, R336). -/
def State.replayOne (s : State) (c : Nat) (e : Nat × Option Place) : State :=
  let k := s.core c
  match k.flight? e.1 with
  | none => s
  | some x =>
    let go := fun (k' : Core) => { s.setCore c { k'.setFlight { x with work := k.replayBeats x.work } with
      run := { k'.run with fault := true }
      rep := { k'.rep with replaying := k'.rep.replaying ++ [e], replays := x.idx :: k'.rep.replays } } with
        free := s.free + 4 * slotFree }
    match x.work with
    | .colPass es ts _ _ _ => go ((k.passSlots es ts).foldl (Core.replaySlot c s.free) k)
    | .plainPass row tree _ _ _ _ _ =>
      match k.rowSet? tree row with
      | none => go k
      | some y =>
        let slots := y.passes.flatMap fun p => p.recs
        if y.dirty && (s.refillLost k slots || s.recsLost (k.plain.recs.filter fun r => slots.any (·.1 == r.1))) then
          s.badPass c e.1 none (k.rereadOver slots)
        else go (s.replayRows c k y)
    | .refill _ i _ _ _ => go (Core.replaySlot c s.free k i)
    | _ => s

/-- A stopped instruction waits for the repair of the place that stopped it: its replay follows the steer of a plane row
(R334 case 3). -/
def Core.awaitsSteer (k : Core) (e : Nat × Option Place) : Bool :=
  match e.2 with
  | some pl => k.rep.defect.any fun d => decide (d.1 = .place pl)
  | none => false

/-- The replay of every stopped instruction, oldest first, but for those that wait for a steer; a repair that waits for the core's
boundary waits for it (R208, R377). -/
def State.replay (s : State) (c : Nat) (k : Core) : State :=
  (k.rep.stopped.filter fun e => !k.awaitsSteer e).foldl (fun s e => s.replayOne c e)
    (s.setCore c { k with rep := { k.rep with stopped := k.rep.stopped.filter k.awaitsSteer } })

/-- FAULT_REPLAY. -/
def execFaultReplay (c : Nat) (s : State) : Out := coreCmd s c (s.replay c)

/-! ### Faults of drains, spills and refills (R85, R179, R332) -/

/-- A fault in the epilogue while drain f computes: it restarts from its recorded state. A Basin accumulator that fails again
is uncorrectable data, and a place that recurs is a defect; either way the drain computes no more (R85, R332, R333). -/
def State.epilogueFault (s : State) (c f : Nat) (pl : Place) (k : Core) : State :=
  match k.flight? f with
  | some ⟨id, idx, .drain d⟩ =>
    if (d.ph ≠ .taking ∧ d.ph ≠ .held) ∨ d.stuck ∨ k.rep.coreFenced then s
    else
      let again := s.recurrent k pl idx
      let bad := match pl with | .basin _ _ _ => d.restarts.contains pl | _ => false
      let k := s.detect k pl
      if again || bad then
        let k := k.setFlight ⟨id, idx, .drain { d with stuck := true }⟩
        let k := if bad then k.endWith .faultFenced idx else k
        if again then s.markDefect c k (.place pl) idx else s.setCore c k
      else
        s.setCore c { k.setFlight ⟨id, idx, .drain { d with restarts := d.restarts ++ [pl], replayed := true }⟩ with
          rep := { k.rep with replays := idx :: k.rep.replays } }
  | _ => s

/-- EPILOGUE_FAULT. -/
def execEpilogueFault (c f : Nat) (pl : Place) (s : State) : Out := coreCmd s c (s.epilogueFault c f pl)

/-- A fault on the spill path: a SPILL restarts from its first beat, a REFILL stops with its slot DIRTY for the replay (R85). -/
def State.spillFault (s : State) (c f : Nat) (pl : Place) (k : Core) : State :=
  match k.flight? f with
  | some ⟨id, idx, .refill e i r t a⟩ =>
    if k.isStopped f || k.rep.coreFenced then s else s.stopPass c k ⟨id, idx, .refill e i r t a⟩ pl
  | some ⟨_, idx, .spill _ _ _ _⟩ =>
    if k.rep.coreFenced then s
    else
      let again := s.recurrent k pl idx
      let k := s.detect k pl
      if again then s.markDefect c k (.place pl) idx
      else s.setCore c { k with rep := { k.rep with replays := idx :: k.rep.replays } }
  | _ => s

/-- SPILL_PATH_FAULT. -/
def execSpillPathFault (c : Nat) (e : FaultAt) (s : State) : Out := coreCmd s c (s.spillFault c e.flight e.place)

/-! ### DEFECT_REPAIR (R334, R335) -/

/-- The boundary at which a repair acts: nothing that will retire is left, and no stopped instruction but those whose replay follows
a steer (R95, R208, R334). -/
def Core.repairable (k : Core) : Bool :=
  k.rep.stopped.all k.awaitsSteer && (k.flight.filter fun f => !k.isStopped f.id).all (Flight.parked k)
    && k.plain.fills.all fun f => f.flight.isNone

/-- Physical row and column of a Basin accumulator. -/
def Core.basinPlace (k : Core) (e slot elem : Nat) : Nat × Nat :=
  let x := k.slot (2 * e + slot)
  let wide := x.kind.isWide
  let n := max 1 x.nExt
  (k.skewRow (cellOf wide (elem / n)), physOf (k.rep.colsEx.getD e []) (cellOf wide (elem % n)))

/-- Cases 1 and 2: a lane or cell of engine e at a physical row and column. -/
def State.repairLane (s : State) (c e row col idx : Nat) (rowFirst : Bool) : State :=
  let k := s.core c
  if rowFirst && k.rowSpare then s.excludeRow c row idx
  else if k.colSpare e then s.excludeCol c e col idx
  else if k.rowSpare then s.excludeRow c row idx
  else s.fenceEngine c e idx

/-- Case 3: a plane row. -/
def State.repairRow (s : State) (c p idx : Nat) (mul : Option Nat) : State :=
  match freeSpare 8 (s.core c).rep.planeSpare, mul with
  | some sp, _ => s.steerRow c p sp idx
  | none, some e => s.fenceEngine c e idx
  | none, none => s.fenceCore c idx

/-- A column exclusion, or a fence, that a survey has made in core c is counted in it: the map of c has changed, and the final round
starts once it has, and 8 µs after for the scan of each exclusion (R327 to R329; log entry 29). -/
def State.countFence (s : State) (c : Nat) (col : Bool) : State :=
  { s with blk := { s.blk with survey := s.blk.survey.map fun v => { v with
      fences := v.fences + 1, warn := true, changed := insertAsc c v.changed
      since := ((if s.since v.since < 2 ^ 55 then s.now else v.since) + if col then s.ticks 8 else 0) % 2 ^ 56 } } }

/-- What one repair does. -/
def State.applyFix (s : State) (c idx : Nat) : Fix → State
  | .place (.colLane e r p rp) => s.repairLane c e r p idx rp
  | .place (.basin e sl el) =>
    let rc := (s.core c).basinPlace e sl el
    s.repairLane c e rc.1 rc.2 idx false
  | .place (.plainMul e p) => s.repairRow c p idx (some e)
  | .place (.planeRow p) => s.repairRow c p idx none
  | .place (.tree e) => s.fenceEngine c e idx
  | .place (.unit _) | .place (.fillHalf _) => s.fenceCore c idx
  | .place (.line _) | .place (.image _) => s
  | .column e p =>
    if ((s.core c).rep.colsEx.getD e []).contains p then s
    else if (s.core c).colSpare e then (s.excludeCol c e p idx).countFence c true
    else if (s.core c).rep.fenced.toNat.testBit e then s
    else (s.fenceEngine c e idx).countFence c false
  | .engine e => if (s.core c).rep.fenced.toNat.testBit e then s else (s.fenceEngine c e idx).countFence c false

/-- The first repair that waits acts, once the core stands at its boundary and any tap change has acted (R326). A core fence
does not wait (R341). A core that is not ON changes nothing (R312). -/
def State.repair (s : State) (c : Nat) (k : Core) : State :=
  match k.rep.defect with
  | [] => s
  | (fix, idx) :: rest =>
    if s.domOn c && (k.fixFences fix || (k.repairable && !k.rep.tapPending)) then
      (s.setCore c { k with rep := { k.rep with defect := rest } }).applyFix c idx fix
    else s

/-- DEFECT_REPAIR. -/
def execDefectRepair (c : Nat) (s : State) : Out := coreCmd s c (s.repair c)

/-! ### Store lines: corrections, scrub, remap (R216, R217, R331, R338, R350) -/

/-- One correction of a line: counted and detected, and the fourth within 1 s asks for a remap. -/
def State.correct (s : State) (k : Core) (line : Nat) : Core :=
  let h := (k.rep.corrected.filter fun e => decide (s.since e.2 ≤ s.ticks 1000000)) ++ [(line, s.now)]
  let k := s.detect { k with eccCor := bump16 k.eccCor } (.line line)
  if 4 ≤ (h.filter (·.1 == line)).length then
    { k with rep := { k.rep with corrected := h.filter (·.1 != line) } }.askRemap line
  else { k with rep := { k.rep with corrected := h } }

/-- A core whose store may be read. -/
def State.storeOn (s : State) (c : Nat) (k : Core) : Bool := s.domOn c && !k.rep.coreFenced

/-- A single-bit error is corrected where it was found: in the store, or in program memory, chain memory or the Ford table. -/
def State.writeback (s : State) (c : Nat) (pl : EccPlace) (k : Core) : State :=
  if !s.storeOn c k then s
  else match pl with
    | .store off => if off < storeSize (isCol c) then s.setCore c (s.correct k (off / 64)) else s
    | .image w => s.setCore c (s.detect { k with eccCor := bump16 k.eccCor } (.image w))

/-- CORRECTED_WRITEBACK. -/
def execCorrectedWriteback (c : Nat) (pl : EccPlace) (s : State) : Out := coreCmd s c (s.writeback c pl)

def State.scrubStore (s : State) (c : Nat) (e : Ecc) (k : Core) : State :=
  if !s.storeOn c k then s
  else
    let line := k.scrubStore
    let k := { k with scrubStore := if line + 1 < storeSize (isCol c) / 64 then line + 1 else 0 }
    s.setCore c (match e with
      | .clean => k
      | .corrected => s.correct k line
      | .uncorrectable w => k.markBad s.now (8 * line + w % 8))

/-- STORE_SCRUB. -/
def execStoreScrub (c : Nat) (e : Ecc) (s : State) : Out := coreCmd s c (s.scrubStore c e)

/-- Spare lines of a store (R330). -/
def spareLines (c : Nat) : Nat := if isCol c then 256 else 64

/-- Remap one line at the boundary, in a core that is ON (R312). The line keeps its bytes and its marks. With no spare line
left the core is fenced, which waits for no boundary (R338, R341). -/
def State.remapLine (s : State) (c line : Nat) (k : Core) : State :=
  if !(k.rep.remap.contains line) || !s.domOn c then s
  else
    match freeSpare (spareLines c) k.rep.lineSpare with
    | some sp =>
      if !k.quiet || !k.rep.defect.isEmpty || k.rep.tapPending then s
      else
        (s.setCore c { k with rep := { k.rep with
          remap := k.rep.remap.filter (· != line), lineSpare := k.rep.lineSpare ++ [(line, sp)] } }).logRepair
            (repairRecord 4 c 0 line sp)
    | none => s.fenceCore c k.run.pc

/-- STORE_LINE_REMAP. -/
def execStoreLineRemap (c line : Nat) (s : State) : Out := coreCmd s c (s.remapLine c line)

/-! ### The plane scrubber (R120) -/

/-- The scrubber reads one slot. A parity error is counted and detected at the physical row; a slot that no started pass reads is
re-filled from its record, and a row that recurs is a defect (R120, R121, R333). A slot without a record is skipped. Of a slot of
4-bit pages of which one half has a record, R120 with R100 leaves open what of the other half is judged: the model judges and counts
the parity of the whole slot and re-fills the recorded half alone, so that an error in the other recurs (DESIGN CHOICE, unsafe, log
entry 29). -/
def State.scrubPlane (s : State) (c : Nat) (up : Option Nat) (prow : Nat) (k : Core) : State :=
  if isCol c || !s.storeOn c k then s
  else
    let slot := k.scrubPlane
    let k := { k.upset up with scrubPlane := (slot + 1) % 1024 }
    let r := Tab.get ((0, 0) : Word × Word) k.plain.recs slot
    if k.plain.parityBad slot && (recValid r.1 || recValid r.2) then
      let again := s.recurs k (.planeRow prow)
      let k := s.detect { k with planePar := bump16 k.planePar } (.planeRow prow)
      let recs := k.plain.recs.filter (·.1 == slot)
      let k := if k.reading [slot] then k else if s.refillLost k recs then k.rereadOver recs else s.refillFrom k recs
      if again then s.markDefect c k (.place (.planeRow prow)) k.run.pc else s.setCore c k
    else s.setCore c k

/-- PLANE_SCRUB. -/
def execPlaneScrub (c : Nat) (r : PlaneRead) (s : State) : Out := coreCmd s c (s.scrubPlane c r.upset r.prow)

/-! ### Uncorrectable data (R332, R336, R337) -/

/-- Bytes of a transfer in source order. -/
def Transfer.length (x : Transfer) : Nat :=
  match x.load with
  | .copy _ _ _ _ _ _ _ _ _ => x.data.length
  | .data bs _ _ _ _ _ => bs.length

/-- Lines of a transfer that wait to be issued are issued no more. -/
def State.dropLines (s : State) (x : Nat) : State :=
  { s with blk := { s.blk with readQ := s.blk.readQ.filter (·.owner != x), writeQ := s.blk.writeQ.filter (·.owner != x) } }

/-- The mark of the word of a core's store in which byte n of a transfer's source lies, where the store holds the bad data: `new`
where it has just been found, else where the word is marked already. -/
def State.markSource (s : State) (x : Transfer) (n : Nat) (new : Bool) : State :=
  match x.load with
  | .copy (.store c off) sp _ rb _ _ _ _ _ =>
    let q := n / rb * sp + n % rb
    if rb = 0 || !(new || s.badByte (.store c off) q) then s else s.modCore c fun k => k.markBad s.now ((off + q) / 8)
  | _ => s

/-- A transfer whose source has been read receives uncorrectable data at a place in source order: what precedes it is laid,
nothing is counted, and its sender ends (R336). -/
def State.badTransfer (s : State) (x : Transfer) (pos : Nat) : State :=
  let n := (x.badAt.map fun i => min i pos).getD pos
  if x.sent.isNone || (x.badAt.isNone && decide (x.length ≤ pos)) then s
  else
    let s1 := s.layBefore x ((x.bytes s).take n)
    (((s1.markSource x n x.badAt.isNone).dropLines x.id).xferFail x .faultFenced 0 0).service

/-- A drain as all its tiles leave the crossing that they can make now. -/
def Core.crossed (k : Core) (c : Nat) (d : Drain) : Drain :=
  let a := d.toTake.foldl (fun (a : Crossed) i =>
    let r := a.1.takeTile c a.2.1 i
    let d := { a.2.1 with tiles := a.2.1.tiles ++ [r.2.1] }
    Drain.crossPlace c 0 ((d.plan r.1).holdPos 0) (fun q => (d.tiles.getD q default).accElem) (r.1, d, a.2.2) (d.tiles.length - 1))
      (k, d, none)
  let d := a.2.1
  if d.ph = .held && (k.grp ((d.plan k).bankAt d.pos)).derived then
    (d.heldTiles.foldl (Drain.crossPlace c d.pos ((d.plan k).holdPos (d.pos + 1))
      fun q => (d.tiles.getD q default).heldElem k.store (areaBase (isCol c)) (d.ords.getD q 0)) (k, d, none)).2.1
  else d

/-- A drain receives uncorrectable data at an element: the elements before it stand, and no status word is written. -/
def State.badDrain (s : State) (c f elem : Nat) (word : Option Nat) (k : Core) : State :=
  match k.flight? f with
  | some ⟨id, idx, .drain d⟩ =>
    if (d.ph ≠ .taking ∧ d.ph ≠ .held) ∨ d.stuck then s
    else
      let k' := match word with | some w => k.markBad s.now w | none => k
      s.stopDrain c k' ⟨id, idx, .drain d⟩ d (k.crossed c (s.readyDrain c d)) elem
  | _ => s

/-- A fill that fails ends its program, or its command (R336). -/
def State.failFill (s : State) (c : Nat) (k : Core) (f : Fill) : State :=
  let k' := { k with plain := k.plain.keepFills fun g => g.id != f.id }
  match f.flight, f.pk with
  | some n, _ =>
    let idx := ((k.flight? n).map (·.idx)).getD k.run.pc
    (s.setCore c ((k'.retire n).endWith .faultFenced idx)).stageNext c
  | none, some pk =>
    let s := s.dropFills fun g => decide (g.pk = some pk)
    match s.pkt? pk with
    | some p => s.complete p .faultFenced 0 0 0
    | none => s
  | none, none => (s.setCore c k').stageNext c

/-- The page stages again from its source. -/
def State.restage (s : State) (c : Nat) (k : Core) (f : Fill) : State :=
  let p := k.plain.freeHalves fun h => h.fill != f.id
  let fills := p.fills.map fun g => if g.id = f.id then { g with begun := 0, parts := 0, restaged := true } else g
  (s.setCore c { k with plain := { p with fills := fills } }).stageNext c

/-- At its commit the next part of a page is found bad: its source was, which fails the page; or its half of the fill buffer is,
a detection after which the page stages again, once (R331, R333, R334, R336). -/
def State.badFill (s : State) (c : Nat) (k : Core) : State :=
  match k.plain.fills with
  | [] => s
  | f :: _ =>
    match k.plain.stagedFor f with
    | none => s
    | some h =>
      if h.bad then s.failFill c k f
      else
        let pl := Place.fillHalf (decide (k.plain.halfB = some h))
        let again := s.recurs k pl
        let k := s.detect k pl
        if again then s.markDefect c k (.place pl) k.run.pc
        else if f.restaged then s.failFill c k f
        else s.restage c k f

/-- A bad word in program memory, chain memory or the Ford table: the program ends and the image is unloaded. -/
def State.badProgram (s : State) (c word : Nat) (k : Core) : State :=
  let k := { s.detect k (.image word) with
    eccUnc := bump16 k.eccUnc, run := { k.run with unloaded := BitVec.ofNat 8 Status.malformed.code } }
  s.setCore c (if k.run.state = .running then k.endWith .faultFenced k.run.pc
    else { k with run := { k.run with state := .empty } })

def State.uncorrectable (s : State) : Receiver → Out
  | .transfer x pos => .next (match s.xfer? x with | some t => s.badTransfer t pos | none => s)
  | .drain c f elem word => coreCmd s c (s.badDrain c f elem word)
  | .pass c f word => coreCmd s c (s.badPass c f word)
  | .fill c => coreCmd s c (s.badFill c)
  | .program c word => coreCmd s c fun k => if s.storeOn c k then s.badProgram c word k else s

/-- UNCORRECTABLE_DATA. -/
def execUncorrectableData (r : Receiver) (s : State) : Out := s.uncorrectable r

/-- Retries of a line of a transfer. -/
def Transfer.retriesOf (x : Transfer) (line : Nat) : Nat := Tab.get 0 x.retries line

/-- One more retry of a line; the failure of the fourth is uncorrectable data at the line's first byte (R337). -/
def Transfer.retry (x : Transfer) (line : Nat) : Transfer :=
  if x.retriesOf line < 4 then { x with retries := Tab.set 0 x.retries line (x.retriesOf line + 1) }
  else { x with badAt := minOpt x.badAt (some (64 * line)) }

def State.setXfer (s : State) (x : Transfer) : State :=
  { s with blk := { s.blk with xfers := s.blk.xfers.map fun y => if y.id = x.id then x else y } }

/-- The same for a line of what a half of a fill buffer stages (R331, R336). -/
def Staged.retry (h : Staged) (line : Nat) : Staged :=
  let n := Tab.get 0 h.retries line
  if n < 4 then { h with retries := Tab.set 0 h.retries line (n + 1) } else { h with bad := true }

/-- The halves of a core's fill buffer for which read x is under way. -/
def PlainSt.retryFill (p : PlainSt) (x line : Nat) : PlainSt :=
  let f := fun (h : Staged) =>
    if h.reads = x ∧ line < partBytes (((p.fills.find? fun g => g.id == h.fill).map (·.cls)).getD 0) / 64 then h.retry line else h
  { p with halfA := p.halfA.map f, halfB := p.halfB.map f }

/-- A packet that has been dispatched and still sends lines of its own: the command packets to the cores that it has yet to act on,
contexts, images, bucket tables, parameter lines, timers and health blocks. -/
def Packet.moves (p : Packet) : Bool :=
  (p.opcode == 0x52 || p.opcode == 0x53 || p.opcode == 0x7F || hasCores p.opcode)
    && (decide (p.st = .ready) || (decide (p.st = .acting) && (p.opcode == 0x52 || !p.todo.isEmpty))
      || (decide (p.st = .running) && (p.opcode == 0x22 || p.opcode == 0x52)))

/-- The same for a line that the command processor moves for a packet: the command then ends with FAULT_FENCED (R336). -/
def Packet.retry (p : Packet) (line : Nat) : Packet :=
  let n := Tab.get 0 p.retries line
  if !p.moves then p
  else if n < 4 then { p with retries := Tab.set 0 p.retries line (n + 1) } else { p with lost := true }

/-- The same for the line of a reply that waits to be written: the command that it answers then ends with FAULT_FENCED (R336, log
entry 35). -/
def Reply.retry (r : Reply) : Reply := if r.retries < 4 then { r with retries := r.retries + 1 } else r.fenced

/-- The oldest reply of a port is retried. -/
def retryReply (p : Nat) : List Reply → List Reply
  | [] => []
  | r :: t => if r.port = p then r.retry :: t else r :: retryReply p t

/-- The line of a status word that a delivered drain sends to fabric memory; lost, it is uncorrectable data for the drain, which then
writes no status word (R144, R336, R337). -/
def State.retryStatus (s : State) (c f : Nat) (k : Core) : State :=
  match k.flight? f with
  | some ⟨id, idx, .drain d⟩ =>
    if d.ph ≠ .delivered ∨ d.stuck ∨ d.ti.stKind = 1 then s
    else if d.tries < 4 then s.setCore c (k.setFlight ⟨id, idx, .drain { d with tries := d.tries + 1 }⟩)
    else s.setCore c ((k.setFlight ⟨id, idx, .drain { d with stuck := true }⟩).endWith .faultFenced idx)
  | _ => s

/-- A line of the next re-fill of a plane slot that has a record; the failure of its fourth retry makes that re-fill's source
uncorrectable data for who asked for it (R121, R337). -/
def Core.retryRefill (k : Core) (slot line : Nat) : Core :=
  let r := Tab.get ((0, 0) : Word × Word) k.plain.recs slot
  let n := Tab.get 0 k.plain.rereads (512 * slot + line)
  if (recValid r.1 || recValid r.2) && decide (line < 512) then
    { k with plain := { k.plain with rereads := Tab.set 0 k.plain.rereads (512 * slot + line) (min 5 (n + 1)) } }
  else k

/-- VALLEY_LINE_RETRY: the line is asked for again; the fourth retry that fails makes it uncorrectable data for who asked (R337). -/
def execValleyLineRetry (l : ValleyLine) (s : State) : Out :=
  .next (match l with
    | .transfer x line =>
      match s.xfer? x with
      | some t => if t.load.lines ≤ line then s else s.setXfer (t.retry line)
      | none => s
    | .fill x line =>
      { s with blk := { s.blk with cores := s.blk.cores.map fun k => { k with plain := k.plain.retryFill x line } } }
    | .packet pk line => match s.pkt? pk with | some p => s.setPkt (p.retry line) | none => s
    | .reply p => { s with blk := { s.blk with replies := retryReply p s.blk.replies } }
    | .status c f => if c < s.cfg.nCores then s.retryStatus c f (s.core c) else s
    | .refill c slot line => s.modCore c fun k => k.retryRefill slot line)

/-! ### Memory ports (R232, R235, R340, R355, R356) -/

/-- A command of memory port q, whose inputs the block does not see under WS_INTEST (R371). -/
def memCmd (s : State) (q : Nat) (f : State) : Out := if q < s.cfg.nPorts then .next (if s.intest then s else f) else noUnit

/-- Every port of group g is withdrawn or absent from list A. -/
def State.groupGone (s : State) (g : Nat) : Bool :=
  (List.range 5).all fun i => !s.aon.listA.contains (5 * g + i) || s.aon.withdrawn.contains (5 * g + i)

/-- Withdrawal of a port: its granules are unbacked, the lines outstanding there are uncorrectable data for who asked, the
record is logged, health is set at every port, and a group without an active port goes OFF with its outputs at their clamps
(R235, R311, R340, R341, R356). -/
def State.withdraw (s : State) (q : Nat) : State :=
  if s.aon.withdrawn.contains q || !s.aon.listA.contains q then s
  else
    let s := s.loseLines (s.port q).wrq
    let s := (s.port q).rdq.foldl (fun s r => s.badLines r.owner ((List.range r.left).filterMap fun i =>
      (addrOf s.aon.listA q (64 * (r.line + i))).map (· / 64))) s
    let s := { s with aon := { s.aon with withdrawn := insertAsc q s.aon.withdrawn } }
    let s := ((s.modPort q fun p => { p with wrq := [], rdq := [] }).logRepair (repairRecord 7 0 0 q 0))
    let s := (List.range 8).foldl (fun s p => s.raiseIrq p 6) s
    let g := s.domGroup (q / 5)
    (if s.groupGone (q / 5) && s.domOn g then s.keepHeld.startDom g .off 1 else s).service

/-- The block sees a rise of mp<q>_fatal, which it ignores while the port's group is not ON (R356). -/
def State.fatalRise (s : State) (q : Nat) : State := if s.domOn (s.domGroup (q / 5)) then s.withdraw q else s

/-- MP_FATAL: the rise of mp<q>_fatal at the pin, which the block does not see under WS_INTEST (R371). -/
def execMpFatal (q : Nat) (s : State) : Out :=
  if q < s.cfg.nPorts then
    let s := { s with pins := { s.pins with memFatal := s.pins.memFatal.set q true } }
    .next (if s.intest then s else s.fatalRise q)
  else noUnit

/-- One line of read data: what the stack holds there, or a flag, which is uncorrectable data for who asked (R356). -/
def State.readLine (s : State) (q owner line : Nat) (l : ReadLine) : State :=
  match addrOf s.aon.listA q (64 * line) with
  | none => s
  | some a =>
    if l.err then
      let s := s.modPort q fun p => { p with flagHist :=
        (p.flagHist.filter fun e => decide (s.since e.2 ≤ s.ticks 1000000) && e.1 != line) ++ [(line, s.now)] }
      { s with flagged := if s.flagged.contains (a / 64) then s.flagged else s.flagged ++ [a / 64] }.badLines owner [a / 64]
    else
      { s with
        mem := s.mem.wrAll (numBytes a 64 l.data.toNat)
        flagged := s.flagged.filter (· != a / 64) }

/-- A request after its next n lines have returned. -/
def ReadReq.step (r : ReadReq) (n : Nat) : ReadReq := { r with line := r.line + n, idx := r.idx + n, left := r.left - n }

/-- Lines of an outstanding request return, in ascending index; then what they complete goes on. 16 distinct flagged lines within
1 s withdraw the port (R232, R340, R355). -/
def State.readLines (s : State) (q tag idx : Nat) (ls : List ReadLine) : State :=
  match (s.port q).rdq.find? (·.tag == tag) with
  | none => s
  | some r =>
    if !s.portUp q || decide (r.idx ≠ idx) || ls.isEmpty || decide (r.left < ls.length) then s
    else
      let s := ((List.range ls.length).zip ls).foldl (fun s e => s.readLine q r.owner (r.line + e.1) e.2) s
      let s := s.modPort q fun p => { p with rdq :=
        (p.rdq.map fun y => if y.tag = tag then y.step ls.length else y).filter fun y => decide (y.left ≠ 0) }
      if 16 ≤ (s.port q).flagHist.length then s.withdraw q else s.service

/-- MP_READ_RESPONSE. -/
def execMpReadResponse (q : Nat) (r : ReadReturn) (s : State) : Out := memCmd s q (s.readLines q r.tag r.idx r.lines)

/-- The packet that a write line is a MOVE's of; 0 for a line of any other transfer. -/
def State.lineOwner (s : State) (l : Lines) : Nat :=
  match (s.xfer? l.owner).map Transfer.owner with
  | some (Owner.packet pk) => pk + 1
  | _ => 0

/-- Insert a line into a list that rises by packet. -/
def State.insertLine (s : State) (x : Lines) : List Lines → List Lines
  | [] => [x]
  | y :: t => if s.lineOwner x ≤ s.lineOwner y then x :: y :: t else y :: s.insertLine x t

/-- The n oldest outstanding write lines of a port complete: the bytes of each stand, a transfer with no line left has landed,
MOVEs in the order of submission, and what that allows goes on (R232, R244). -/
def State.writesDone (s : State) (q n : Nat) : State :=
  let done := (s.port q).wrq.take n
  let s := done.foldl State.lineLaid (s.modPort q fun p => { p with wrq := p.wrq.drop n })
  ((done.foldl (fun l x => s.insertLine x l) []).foldl State.lineLanded s).service

/-- MP_WRITE_COMPLETION. -/
def execMpWriteCompletion (q n : Nat) (s : State) : Out := memCmd s q (s.writesDone q n)

end Sys2Proof.Machine
end

