-- ==== Sys2Proof/Machine/Survey.lean ====
section
/-! DEFINITION. Margin surveys: measurement, retaps, floor steps, exclusions and fences, MARGIN_STATUS, and the ageing
comparator that starts the automatic survey (R305, R323 to R329). -/

namespace Sys2Proof.Machine

open Host

/-- Range correction of a group: from the present supply and temperature over the range between the present floor and vmax, up to
the present junction limit (R324). -/
def State.correction (s : State) (d g : Nat) : Int :=
  let p := s.aon.power
  Config.rangeCorrection d g p.vreq.toNat s.aon.sensors p.floor.toNat p.vmax.toNat p.tjLimit.toNat

/-- np / nm - 1 in units of 0.25 %, truncated toward zero (R324). -/
def rawMargin (np nm : Nat) : Int := Int.tdiv (((np : Int) - nm) * 400) nm

/-- The working margin of a measured group. -/
def State.margin (s : State) (m : Measure) : Int := rawMargin m.np m.nm - s.correction m.dom m.grp

def State.tapOf (s : State) (d g : Nat) : Nat := (Tab.get (0 : BitVec 4) s.blk.taps (16 * d + g)).toNat

/-- 9.0 % in units of 0.25 % (R325). -/
def retapAt : Int := 36

/-- The tap that brings the predicted margin to 9.0 % or more by the fewest steps, at most 15: each step lengthens the
matched delay by 1/32 of its length at tap 0 (R305, R327). -/
def State.raisedTap (s : State) (m : Measure) : Nat :=
  let t := s.tapOf m.dom m.grp
  (((List.range 16).filter (t < ·)).find? fun u =>
    decide (retapAt ≤ rawMargin (m.np * (32 + u)) (m.nm * (32 + t)) - s.correction m.dom m.grp)).getD 15

/-- Groups of the domains of a survey that are ON. -/
def State.groupsOf (s : State) (doms : List Nat) : List (Nat × Nat) :=
  (doms.filter s.domOn).flatMap fun d => (List.range 16).map fun g => (d, g)

/-- The groups that a round measures (R327, R328). -/
def State.roundGroups (s : State) (v : Survey) : List (Nat × Nat) :=
  match v.round with
  | .first | .floor => s.groupsOf v.doms
  | .retap => v.retapped.filter fun x => s.domOn x.1
  | .final => s.groupsOf v.changed

/-- The supply has the requested code (R309), and a survey that waits for it goes on (R328). -/
def State.vcoreAck (s : State) : State := (s.modPower fun p => { p with request := false }).settleFloor

/-- VCORE_ACK, which the block does not see under WS_INTEST (R371). -/
def execVcoreAck (s : State) : Out := .next (if s.intest then s else s.vcoreAck)

/-- What a survey asks for. -/
def Fix.survey : Fix → Bool
  | .place _ => false
  | .column _ _ | .engine _ => true

/-- Exclusions or fences that a survey has asked for wait for a boundary. -/
def State.surveyFixes (s : State) (v : Survey) : Bool :=
  v.doms.any fun d => decide (d < s.cfg.nCores) && (s.core d).rep.defect.any fun x => x.1.survey

/-- What a round waits for beside its 64 us: taps and repairs at their boundaries, and the supply at the floor. -/
def State.roundReady (s : State) (v : Survey) : Bool :=
  match v.round with
  | .first => true
  | .retap => v.retapped.all fun x => !(s.blk.tapsDue.any fun e => e.1 == 16 * x.1 + x.2)
  | .floor => v.settled
  | .final => !s.surveyFixes v

/-- Record the measured groups as the latest, with the counts of their replicas (R324, R371). -/
def Survey.measured (v : Survey) (ms : List Measure) (l : List (Nat × Nat × Int × Nat)) : Survey :=
  { v with
    latest := (v.latest.filter fun x => !(l.any fun y => y.1 == x.1 && y.2.1 == x.2.1)) ++ l
    counts := ms.foldl (fun t m => Tab.set (0, 0) t (16 * m.dom + m.grp) (m.np, m.nm)) v.counts }

/-- Raise the tap of one group: at the core's next boundary, or at once elsewhere (R326). -/
def State.raiseTap (s : State) (m : Measure) : State :=
  let key := 16 * m.dom + m.grp
  let t := BitVec.ofNat 4 (s.raisedTap m)
  if m.dom < s.cfg.nCores then
    ({ s with blk := { s.blk with tapsDue := Tab.insert s.blk.tapsDue key t } }).modCore m.dom fun k =>
      { k with rep := { k.rep with tapPending := true } }
  else { s with blk := { s.blk with taps := Tab.set 0 s.blk.taps key t } }

/-- Set the survey in progress. -/
def State.setSurvey (s : State) (v : Option Survey) : State :=
  { s with blk := { s.blk with survey := v, margin := { s.blk.margin with running := v.isSome } } }

/-- The group of the lowest working margin; the lowest domain and group where several share it (R329). -/
def worstOf (l : List (Nat × Nat × Int × Nat)) : Option (Nat × Nat × Int × Nat) :=
  l.foldl (fun b x => match b with
    | none => some x
    | some y =>
      if x.2.2.1 < y.2.2.1 ∨ (x.2.2.1 = y.2.2.1 ∧ (x.1 < y.1 ∨ (x.1 = y.1 ∧ x.2.1 < y.2.1))) then some x else b) none

/-- A MARGIN_SURVEY whose survey has completed replies once the other command processor has reported its part (R276). -/
def State.surveyReply (s : State) (p : Packet) : State :=
  match p.reply with
  | some w => s.settle p fun s p => s.finish p w.1 w.2
  | none => s

/-- The survey completes: MARGIN_STATUS, the reply of MARGIN_SURVEY, or the counters of the automatic survey (R329). -/
def State.surveyDone (s : State) (v : Survey) : State :=
  let w := (worstOf v.latest).getD (0, 0, 0, 0)
  let m := { s.blk.margin with
    surveys := s.blk.margin.surveys + 1, worst := BitVec.ofNat 8 (min 0xFF w.2.2.1.toNat)
    worstDom := BitVec.ofNat 6 w.1, worstGrp := BitVec.ofNat 4 w.2.1
    warn := v.warn, retaps := BitVec.ofNat 8 (min 0xFF v.retaps), fences := BitVec.ofNat 4 (min 0xF v.fences) }
  let s := ({ s with blk := { s.blk with margin := m, counts := v.counts } }).setSurvey none
  match v.pk with
  | some pk => match s.pkt? pk with
    | some p => s.surveyReply { p with reply := some (replyOf p .ok s.marginWord) }
    | none => s
  | none => { s with aon := { s.aon with busy := 0, surveyAt := s.aon.time, cause := s.aon.cause &&& ~~~8#4 } }

/-- A group still below 9.0 % at tap 15 and the highest floor: the weakest column of the band of a Col group, which is one of its
33, the engine of a Plain group, or the core (R327). -/
def State.escalate (s : State) (x : Nat × Nat × Int × Nat) : State :=
  let d := x.1
  let g := x.2.1
  let later := fun (f : Fix) => s.modCore d fun k =>
    if k.rep.coreFenced then k else { k with rep := { k.rep with defect := k.rep.defect ++ [(f, k.run.pc)] } }
  if s.cfg.nCores ≤ d then { s with blk := { s.blk with margin := { s.blk.margin with fail := true } } }
  else if 8 ≤ g then (if (s.core d).rep.coreFenced then s else (s.fenceCore d (s.core d).run.pc).countFence d false)
  else if isCol d then later (.column (g / 4) (33 * (g % 4) + x.2.2.2))
  else later (.engine (g / 2))

/-- Groups that stand below 9.0 % at tap 15. -/
def State.stuckGroups (s : State) (v : Survey) : List (Nat × Nat × Int × Nat) :=
  v.latest.filter fun x => decide (x.2.2.1 < retapAt) && s.tapOf x.1 x.2.1 == 15 && s.domOn x.1

/-- After the retaps: floor steps while one helps, then escalation, then the final round of every domain whose map has changed by
then, if any has (R327, R328). -/
def State.surveyStep (s : State) (v : Survey) : State :=
  let bad := s.stuckGroups v
  let p := s.aon.power
  if !bad.isEmpty && decide (p.floor.toNat < p.vmax.toNat) then
    State.settleFloor ((s.modPower fun p => { p with floor := BitVec.ofNat 7 (min (p.floor.toNat + 2) p.vmax.toNat) }).setSurvey
      (some { v with round := .floor, since := s.now, settled := false, warn := true }))
  else
    let s := bad.foldl State.escalate (s.setSurvey (some { v with changed := [], round := .final, since := s.now }))
    match s.blk.survey with
    | some v => if !s.surveyFixes v && (s.roundGroups v).isEmpty then s.surveyDone v else s
    | none => s

/-- One completed round. -/
def State.roundDone (s : State) (v : Survey) (ms : List Measure) : State :=
  let v := v.measured ms (ms.map fun m => (m.dom, m.grp, s.margin m, m.col))
  match v.round with
  | .first =>
    let low := ms.filter fun m => decide (s.margin m < retapAt) && decide (s.tapOf m.dom m.grp < 15)
    if low.isEmpty then s.surveyStep v
    else (low.foldl State.raiseTap s).setSurvey
      (some { v with round := .retap, since := s.now, retaps := low.length, retapped := low.map fun m => (m.dom, m.grp) })
  | .retap | .floor => s.surveyStep v
  | .final => s.surveyDone v

/-- The first measurement of each wanted group. -/
def pickGroups (ms : List Measure) (want : List (Nat × Nat)) : List Measure :=
  want.filterMap fun x => ms.find? fun m => m.dom == x.1 && m.grp == x.2

/-- Start a survey of the domains named; those that are OFF are skipped when a round measures (R328). -/
def State.startSurvey (s : State) (pk : Option Nat) (cores : List Nat) : State :=
  let cps := if s.cfg.hasEast then [s.domCp .west, s.domCp .east] else [s.domCp .west]
  s.setSurvey (some ⟨pk, cores ++ cps ++ [s.domValley], .first, s.now, false, [], [], [], [], 0, 0, false⟩)

/-- The automatic survey that is due starts on the lead, awake, once no survey runs (R328, R329). One that is due before phase
OPEN, or during a fuse reload, waits for OPEN: R329 does not say (DESIGN CHOICE, unsafe, log entry 29). -/
def State.startDue (s : State) : State :=
  if s.aon.surveyDue && s.blk.survey.isNone && decide (s.aon.sleep = .awake) && s.portsOpen && s.cpUp s.leadHalf then
    ({ s with aon := { s.aon with surveyDue := false } }).startSurvey none ((List.range s.cfg.nCores).filter s.domOn)
  else s

/-- The 64 us of a round have passed; a final round in which nothing is to be measured takes none (R328). -/
def State.roundOver (s : State) (v : Survey) : Bool :=
  (s.past v.since 64 && decide (s.since v.since < 2 ^ 55)) || (decide (v.round = .final) && (s.roundGroups v).isEmpty)

/-- A round completes when its 64 us have passed, what it waits for has happened, and every group has been measured. -/
def State.measure (s : State) (ms : List Measure) : State :=
  match s.blk.survey with
  | none => s.startDue
  | some v =>
    let want := s.roundGroups v
    let got := pickGroups ms want
    if s.roundOver v && s.roundReady v && got.length == want.length then
      s.roundDone v got
    else s

/-- MEASUREMENT_ROUND. -/
def execMeasurementRound (ms : List Measure) (s : State) : Out := .next (s.measure ms)

/-- MARGIN_SURVEY, once its order has reached the other command processor where that serves a core of it (R275); of no cores it is a
no-op (R251). -/
def execMarginSurvey (pk : Nat) (s : State) : Out :=
  .next (s.command pk 0x53 fun p =>
    if p.st = .running then s.surveyReply p
    else if p.ordered && p.order2.isNone then s.setPkt p
    else if p.coresMask = 0 then s.complete p .ok 0 0 s.marginWord
    else (s.setPkt { p with st := .running, acted := p.todo, todo := [] }).startSurvey (some p.id) (p.named s))

/-! ### TAP_CHANGE (R326) -/

/-- The raised taps of core d act at its boundary, before a repair that waits for it; the sequencer then starts nothing for 16
beats. A core in RETAIN passes no handshake, and its taps wait (R312). -/
def State.tapChange (s : State) (d : Nat) : State :=
  let k := s.core d
  let due := s.blk.tapsDue.filter fun e => e.1 / 16 == d
  if due.isEmpty || !k.repairable || !(s.domOn d || decide (s.dom d = .still .off)) then s
  else
    let left := s.blk.tapsDue.filter fun e => e.1 / 16 != d
    let taps := due.foldl (fun t e => Tab.set 0 t e.1 e.2) s.blk.taps
    ({ s with blk := { s.blk with taps := taps, tapsDue := left } }).modCore d fun k =>
      { k with rep := { k.rep with tapPending := false, tapBeats := if s.domOn d then 16 else 0 } }

/-- TAP_CHANGE; outside the cores taps change at once and none is due (R326). -/
def execTapChange (d : Nat) (s : State) : Out := if d < s.cfg.nDoms then .next (s.tapChange d) else noUnit

/-! ### AGEING_COMPARATOR (R323, R329) -/

/-- 10 minutes of busy time, or 24 hours since the last automatic survey. -/
def State.aged (s : State) : Bool :=
  decide (600000 * s.aon.refKhz.toNat ≤ s.aon.busy.toNat)
    || decide (86400000 * s.aon.refKhz.toNat ≤ s.since s.aon.surveyAt.toNat)

/-- The automatic survey runs. -/
def State.autoSurvey (s : State) : Bool := (s.blk.survey.map fun v => v.pk.isNone).getD false

def State.age (s : State) : State :=
  if s.aged && !s.aon.surveyDue && !s.autoSurvey then
    (({ s with aon := { s.aon with surveyDue := true } }).setCause 3).startDue
  else s.startDue

/-- AGEING_COMPARATOR. -/
def execAgeingComparator (s : State) : Out := .next s.age

end Sys2Proof.Machine
end

