-- ==== Sys2Proof/Machine/Fuse.lean ====
section
/-! DEFINITION. The fuse array: repair records applied at a fuse read, and the program, void and reload operations (R235,
R344 to R347, R359, R361, R365). -/

namespace Sys2Proof.Machine

open Host

/-! ### Records (R344) -/

/-- Whether the check byte of a record matches. -/
def recCheckOk (w : Word) : Bool :=
  ((List.range 7).map fun i => w.toNat >>> (8 * i + 8) % 256).foldl (· ^^^ ·) 0 == fld w 7 0

/-- The check byte, the kind, and every field within what the kind can apply to (R344). -/
def recFits (k : Configuration) (w : Word) : Bool :=
  let kind := fld w 63 60
  let c := fld w 58 54
  let e := fld w 53 52
  let tg := fld w 39 20
  let sp := fld w 19 8
  let built := decide (c < k.nCores)
  recCheckOk w && fld w 51 40 == 0 &&
  (match kind with
    | 0 => c == 0 && e == 0 && tg == 0 && sp == 0
    | 1 => built && isCol c && e == 0 && decide (tg ≤ 131) && sp == 0
    | 2 => built && isCol c && decide (e ≤ 1) && decide (tg ≤ 131) && sp == 0
    | 3 => built && !isCol c && e == 0 && decide (tg ≤ 519) && decide (sp ≤ 7)
    | 4 => built && e == 0 && decide (64 * tg < storeSize (isCol c)) && decide (sp < spareLines c)
    | 5 => built && (!isCol c || decide (e ≤ 1)) && tg == 0 && sp == 0
    | 6 => built && e == 0 && tg == 0 && sp == 0
    | 7 => c == 0 && e == 0 && decide (tg < k.nPorts) && sp == 0
    | _ => false)

def recVoid (w : Word) : Bool := bitOf w 59

/-- A record that the fuse read ignores and counts. -/
def recBad (k : Configuration) (w : Word) : Bool := !recVoid w && !recFits k w

/-- What a record in force does to the maps of its core; a place that is repaired already stays as it is, and a fifth row or
column of an engine finds no spare (log entry 27). -/
def Repair.applyRecord (r : Repair) (w : Word) : Repair :=
  let e := fld w 53 52
  let tg := fld w 39 20
  let sp := fld w 19 8
  match fld w 63 60 with
  | 1 => if r.rowsEx.length < 4 then { r with rowsEx := insertAsc tg r.rowsEx } else r
  | 2 => if (r.colsEx.getD e []).length < 4 then { r with colsEx := r.colsEx.modify e (insertAsc tg) } else r
  | 3 => if r.planeSpare.any (·.1 == tg) then r else { r with planeSpare := r.planeSpare ++ [(tg, sp)] }
  | 4 => if r.lineSpare.any (·.1 == tg) then r else { r with lineSpare := r.lineSpare ++ [(tg, sp)] }
  | 5 =>
    if r.fenced ≠ 0 && !r.fenced.toNat.testBit e then { r with coreFenced := true }
    else { r with fenced := r.fenced ||| BitVec.ofNat 4 (1 <<< e) }
  | 6 => { r with coreFenced := true }
  | _ => r

/-! ### The fuse read (R93, R235, R345) -/

/-- The listed records in ascending order, those that apply. -/
def State.liveRecs (s : State) : List (Nat × Word) :=
  s.aon.fuses.recs.filter fun r => recFits s.cfg r.2 && !recVoid r.2 && fld r.2 63 60 != 0

/-- Maps of core c as the fuses build them, at epoch 0. -/
def State.fusedMaps (s : State) (c : Nat) : Repair :=
  (s.liveRecs.filter fun r => fld r.2 63 60 != 7 && fld r.2 58 54 == c).foldl (fun a r => a.applyRecord r.2) Repair.reset

/-- Ports that records at or above r withdraw. -/
def State.fusedPorts (s : State) (r : Nat) : List Nat :=
  (List.range s.cfg.nPorts).filter fun q => s.liveRecs.any fun x => decide (r ≤ x.1) && fld x.2 63 60 == 7 && fld x.2 39 20 == q

/-- Fabric memory under another list A: each byte stays where its stack holds it (log entry 6). -/
def relay (old new : List Nat) (m : Mem) : Mem :=
  if old = new ∨ old = [] then m
  else Tab.canon 0 (m.filterMap fun b =>
    let p := portOf old b.1
    (addrOf new p.1 p.2).map fun a => (a, b.2))

/-- Flagged lines under another list A. -/
def relayLines (old new : List Nat) (l : List Nat) : List Nat :=
  if old = new ∨ old = [] then l
  else l.filterMap fun x =>
    let p := portOf old (64 * x)
    (addrOf new p.1 p.2).map (· / 64)

/-- The maps that a fuse read builds, at epoch 0. What a core does meanwhile and its fault history stay, and a unit that is fenced
stays fenced until a reset (R342, R349). -/
def Repair.rebuilt (r fused : Repair) : Repair :=
  { r with
    rowsEx := fused.rowsEx, colsEx := fused.colsEx, epochs := fused.epochs, planeSpare := fused.planeSpare
    lineSpare := fused.lineSpare, fenced := fused.fenced ||| r.fenced, coreFenced := fused.coreFenced || r.coreFenced }

/-- Apply every record: maps, list A, withdrawn ports, CAPS and bad_recs. -/
def State.readFuses (s : State) : State :=
  let gone := s.fusedPorts 0
  let listA := (List.range s.cfg.nPorts).filter fun q => !gone.contains q
  let bad := (s.aon.fuses.recs.filter fun r => recBad s.cfg r.2).length
  { s with
    mem := relay s.aon.listA listA s.mem
    flagged := relayLines s.aon.listA listA s.flagged
    aon := { s.aon with
      caps0 := s.cfg.caps0, caps1 := s.cfg.caps1, listA := listA, withdrawn := s.fusedPorts 1024
      fuses := { s.aon.fuses with badRecs := BitVec.ofNat 8 (min 255 bad) } }
    blk := { s.blk with cores := s.blk.cores.mapIdx fun c k => { k with rep := k.rep.rebuilt (s.fusedMaps c) } } }

/-! ### Program, void and reload (R347, R359) -/

/-- The record of the slot that an operation names. -/
def Fuses.slotRec (f : Fuses) : Word := Tab.get 0 f.recs (1024 + f.slot.toNat)

def Fuses.setRec (f : Fuses) (w : Word) : Fuses := { f with recs := Tab.set 0 f.recs (1024 + f.slot.toNat) w }

/-- The void bit. -/
def voidBit : Word := 1#64 <<< 59

/-- A burn and its read-back; n is the free value used. A full slot is not programmed, an empty one not voided, and a void changes
no bit but the void bit (R347). -/
def Fuses.burn (f : Fuses) (void : Bool) (n : Nat) : Fuses :=
  let old := f.slotRec
  let want := if void then old ||| voidBit else f.prog
  if !void && old ≠ 0 then { f with state := .waitLow 2, vppReq := false }
  else if void && old = 0 then { f with state := .waitLow 3, vppReq := false }
  else
    let got := if void then old ||| (Config.burned n want &&& voidBit) else Config.burned n want
    { f.setRec got with state := .waitLow (if got = want then 0 else 1), vppReq := false }

/-- FUSE_BURN_TIMER: 200 us after the block saw vpp_ack high. -/
def execFuseBurnTimer (s : State) : Out :=
  .next (match s.aon.fuses.state with
    | .burning void since =>
      if s.past since 200 then { s.modFuses fun f => f.burn void s.free with free := s.free + 1 } else s
    | _ => s)

/-- What a level of vpp_ack does to an operation. -/
def Fuses.ack (f : Fuses) (level : Bool) (now : Nat) : Fuses :=
  match f.state, level with
  | .waitHigh void, true => { f with state := .burning void now }
  | .waitLow r, false => { f with state := .idle, result := r }
  | _, _ => f

/-- VPP_ACK: the level of vpp_ack, which the block does not see under WS_INTEST (R371). -/
def execVppAck (level : Bool) (s : State) : Out :=
  let s := { s with pins := { s.pins with vppAck := level } }
  .next (if s.intest then s else s.modFuses fun f => f.ack level s.now)

/-- A slot that was burned only in part reads as a record that does not match and is not void, or empty (R361). -/
def partRead (w : Word) : Word := if recCheckOk w || recVoid w then 0 else w

/-- A reset stops an operation (R361). -/
def Fuses.stop (f : Fuses) (n : Nat) : Fuses :=
  let f' := { f with state := .idle, vppReq := false }
  match f.state with
  | .burning false _ =>
    if f.slotRec ≠ 0 then f' else f'.setRec (partRead (Config.partBurned n f.prog))
  | .burning true _ =>
    if f.slotRec = 0 then f' else f'.setRec (partRead (Config.partBurned n f.slotRec))
  | _ => f'

/-- FUSE_RELOAD_COMPLETE: the maps are rebuilt, busy clears, and the block is OPEN again, with the accesses that its ports held. -/
def execFuseReloadComplete (s : State) : Out :=
  .next (if s.aon.phase = .fuseRead ∧ s.aon.fuses.state = .reload then
    let s := s.readFuses
    State.openPorts { s with aon := { s.aon with phase := .opened, fuses := { s.aon.fuses with state := .idle, result := 0 } } }
  else s)

end Sys2Proof.Machine
end

