-- ==== Sys2Proof/Machine/Boot.lean ====
section
/-! DEFINITION. Resets and boot: power-on, block reset, the boot phases, and a core supply out of range (R325, R349, R358 to
R368). -/

namespace Sys2Proof.Machine

open Host

/-! ### Resets (R360, R361) -/

/-- What blk_rst_n clears in the always-on domain. -/
def Aon.blockReset (a : Aon) (k : Configuration) (n : Nat) : Aon :=
  { a with
    phase := .reset, sealed := false, leadHalf := false, policyCrc := 0, policy := List.replicate 113 0
    epochW := 0, epochE := 0, roleW := .off, roleE := .off, saddleUp := false, armed := false, alarm := 0, wakeEn := 0xF
    asleep := false, sleep := .awake, surveyDue := false, wakeHit := false, armedNow := false
    power := { a.power with vreq := 50, floor := 10, gate := 0, request := false, calm := [] }
    doms := List.replicate k.nDoms (.still .on), fuses := a.fuses.stop n }

/-- A host port at blk_rst_n: its window lies in the always-on domain and stays; the packets it submitted are gone, so their
credits are back (R241), West serves it again (R365), and the accesses that it held are aborted (R364). -/
def HostPort.blockReset (h : HostPort) : HostPort :=
  { h with credits := if h.asm.isEmpty then 16 else 15, cpHalf := .west, stall := [] }

/-- The assertion of blk_rst_n: the outputs keep what they drive where their clamps hold it (R362; log entry 10). -/
def State.blockReset (s : State) : State :=
  let s := s.keepHeld
  { s with
    pins := { s.pins with blkRstLow := true }, aon := s.aon.blockReset s.cfg s.free, hp := s.hp.map HostPort.blockReset
    blk := .reset s.cfg, free := s.free + 1 }

/-- Its release: boot starts with the fuse read, or, while a test instruction is loaded, not at all (R373). -/
def State.blockRelease (s : State) : State :=
  if s.pins.blkRstLow then
    { s with
      pins := { s.pins with blkRstLow := false }, blk := .reset s.cfg
      aon := { s.aon with phase := if s.aon.wrap.wir.refused then .scanLock else .fuseRead } }
  else s

/-- BLK_RST: blk_rst_n falls or rises. -/
def execBlkRst (low : Bool) (s : State) : Out := .next (if low then s.blockReset else s.blockRelease)

/-- AON_POR: the whole block resets; fuses stay fused, what lies behind the ports stays, and so does what the edge supply holds at
the outputs (R345, R360, R362). -/
def execAonPor (s : State) : Out :=
  let s := s.keepHeld
  let r := State.resetOf s.cfg
  .next { r with
    pins := s.pins, mem := s.mem, flagged := s.flagged, free := s.free + 1, pending := s.pending
    aon := { r.aon with
      phase := if s.pins.blkRstLow then .reset else .fuseRead
      listA := s.aon.listA, held := s.aon.held
      fuses := { Fuses.reset with recs := (s.aon.fuses.stop s.free).recs } } }

/-! ### Boot phases (R365) -/

/-- Some clamp strap reads 11 (R362). -/
def strapBad (c : BitVec 16) : Bool := (List.range 8).any fun i => c.toNat.testBit (2 * i) && c.toNat.testBit (2 * i + 1)

/-- Straps are sampled. -/
def State.sampleStraps (s : State) : State :=
  { s with aon := { s.aon with clamps := s.pins.clamps, bootPort := s.pins.bootPort, strapErr := strapBad s.pins.clamps } }

/-- FUSE_READ, at boot. -/
def execFuseRead (s : State) : Out :=
  .next (if s.aon.phase = .fuseRead ∧ s.aon.fuses.state ≠ .reload ∧ !s.pins.blkRstLow then
    let s := s.sampleStraps.readFuses
    { s with aon := { s.aon with phase := .init } }
  else s)

/-- The manufacturing plan of every tap (R325). -/
def State.planTaps (s : State) : Tab (BitVec 4) :=
  Tab.canon 0 (((List.range s.cfg.nDoms).filter s.hasTaps).flatMap fun d =>
    (List.range 16).map fun g => (16 * d + g, Config.mfgTap d g))

/-- A store full of zeros, and no slot record. -/
def Core.initStore (k : Core) : Core := { k with store := [], bad := [], plain := { k.plain with recs := [] } }

/-- Command processors that are not held in reset by their own input hear from now on. -/
def State.cpStart (s : State) (h : Half) : State :=
  let low := match h with | .west => s.pins.cpwLow | .east => s.pins.cpeLow
  if low then s.setDom (s.domCp h) (.still .off)
  else s.modCp h fun k => { k with heardAt := s.now, sentAt := s.now }

/-- INIT: every built domain ON, taps from the plan, stores zero. -/
def execInit (s : State) : Out :=
  .next (if s.aon.phase = .init then
    let s := { s with
      aon := { s.aon with phase := .ready, doms := List.replicate s.cfg.nDoms (.still .on) }
      blk := { s.blk with taps := s.planTaps, cores := s.blk.cores.map Core.initStore } }
    let s := s.cpStart .west
    if s.cfg.hasEast then s.cpStart .east else s
  else s)

/-- PHASE_OPEN: INIT's work is done; the accesses that the host ports hold transfer (R364). -/
def execPhaseOpen (s : State) : Out :=
  .next (if s.aon.phase = .ready then State.openPorts { s with aon := { s.aon with phase := .opened } } else s)

/-! ### A supply out of range (R358) -/

/-- A list of n entries. -/
def fitList {α : Type} (d : α) (n : Nat) (l : List α) : List α := (List.range n).map fun i => l.getD i d

/-- A free core in the form of a core: tables in canonical form, lists of their lengths. -/
def Core.formed (k : Core) : Core :=
  { k with
    loops := fitList none 4 k.loops, phases := fitList .zero 32 k.phases, lists := fitList none 5 k.lists
    store := Tab.canon 0 k.store, slots := fitList .reset 4 k.slots, banks := Tab.canon default k.banks
    groups := fitList .none 2 k.groups
    plain := { k.plain with
      colAcc := Tab.canon 0 k.plain.colAcc, treeAcc := Tab.canon 0 k.plain.treeAcc, rowExc := Tab.canon (0, 0) k.plain.rowExc
      plane := Tab.canon 0 k.plain.plane, par := Tab.canon false k.plain.par, recs := Tab.canon (0, 0) k.plain.recs }
    rep := { k.rep with colsEx := fitList [] 2 k.rep.colsEx, epochs := fitList 0 2 k.rep.epochs } }

def TState.formed (x : TState) (k : Configuration) : TState :=
  { x with bind := fitList none k.nCores x.bind, tens := fitList .reset 16 x.tens }

/-- A free state of the domains in the form of configuration k. -/
def Blk.formed (b : Blk) (k : Configuration) : Blk :=
  { b with
    cores := (fitList .reset k.nCores b.cores).map Core.formed, served := fitList .west k.nCores b.served
    west := { b.west with ts := b.west.ts.formed k }, east := { b.east with ts := b.east.ts.formed k }
    ports := fitList default k.nPorts b.ports, taps := Tab.canon 0 b.taps, tapsDue := Tab.canon 0 b.tapsDue, counts := Tab.canon (0, 0) b.counts }

/-- Every domain other than the always-on domain takes an undefined state. -/
def State.undefine (s : State) : State :=
  { s with blk := (Config.undefinedBlk s.free).formed s.cfg, free := s.free + 1 }

/-- The data of a half of the fill buffer as it was. -/
def Staged.keep (new old : Option Staged) : Option Staged :=
  new.map fun h => { h with data := match old with | some o => o.data | none => h.data }

/-- The storage arrays of a core as they were: store, plane, Basin, fill buffer and program, chain and Ford memory (R371, R372). -/
def Core.keepArrays (new old : Core) : Core :=
  { new with
    store := old.store, bad := old.bad, img := old.img
    slots := (new.slots.zip old.slots).map fun x => { x.1 with acc := x.2.acc }
    plain := { new.plain with
      plane := old.plain.plane, par := old.plain.par, halfA := Staged.keep new.plain.halfA old.plain.halfA
      halfB := Staged.keep new.plain.halfB old.plain.halfB } }

/-- Every stage of those domains takes an undefined state, and the storage arrays, which lie in no chain, stay (R372). -/
def State.undefineStages (s : State) : State :=
  let new := (Config.undefinedBlk s.free).formed s.cfg
  { s with blk := { new with cores := (new.cores.zip s.blk.cores).map fun x => x.1.keepArrays x.2 }, free := s.free + 1 }

/-- VDD_CORE_OUT_OF_RANGE. -/
def execVddCoreOutOfRange (s : State) : Out := .next (if s.pins.blkRstLow then s else s.undefine)

end Sys2Proof.Machine
end

