-- ==== Sys2Proof/Machine/Test.lean ====
section
/-! DEFINITION. The test wrapper (R371 to R374). -/

namespace Sys2Proof.Machine

open Host

def State.modWrap (s : State) (f : Wrapper → Wrapper) : State := { s with aon := { s.aon with wrap := f s.aon.wrap } }

/-- What the scan chains hold is unknown from here on (R372). -/
def Wrapper.freshChain (w : Wrapper) (n : Nat) : Wrapper := { w with chain := [], base := n }

/-- SCAN_LOCK: every output group but the test group goes to its strap level, and any sleep is abandoned (R373). -/
def State.lock (s : State) : State :=
  { s.keepHeld with aon := { s.keepHeld.aon with phase := .scanLock, sleep := .awake, asleep := false, wakeHit := false } }

/-- The inputs of the power and always-on groups, and mp<q>_fatal, that the block sees change from old, as WS_INTEST starts, drives
them or ends (R356, R371). -/
def State.seeInputs (s : State) (old : Pins) : State :=
  let new := s.seen
  let s := if new.vppAck = old.vppAck then s else s.modFuses fun f => f.ack new.vppAck s.now
  let s := if s.intest && s.aon.wrap.driven.getD s.cfg.vcoreAckCell false then s.vcoreAck else s
  let s := if new.hostWake && !old.hostWake then s.setCause 2 else s
  let s := if old.sleepReq && !new.sleepReq then s.sleepReqFall else s
  ((List.range s.cfg.nPorts).filter fun q => new.memFatal.getD q false && !old.memFatal.getD q false).foldl State.fatalRise s

/-- The number that n cells of the boundary register from cell i on drive. -/
def Wrapper.cells (w : Wrapper) (i n : Nat) : Nat :=
  (List.range n).foldl (fun a j => a + if w.driven.getD (i + j) false then 2 ^ j else 0) 0

/-- One cycle of the clock of memory port q under WS_INTEST: the read data, the write completions that the boundary register
drives at its inputs (R355, R371). An update drives them for one cycle (DESIGN CHOICE, unsafe, log entry 26). -/
def State.portCycle (s : State) (q : Nat) : State :=
  let f := fun i n => s.aon.wrap.cells (s.cfg.memPortCell q + i) n
  let ls := (List.range (f 4929 5)).map fun j =>
    (⟨BitVec.ofNat 512 (f (4934 + 512 * j) 512), decide (f (13126 + j) 1 = 1)⟩ : ReadLine)
  let s := if f 4913 1 = 1 then s.readLines q (f 4915 8) (f 4923 6) ls else s
  if 0 < f 13142 4 then s.writesDone q (f 13142 4) else s

/-- The parallel outputs keep what they drive as an instruction that drives them is left (R362, R363). -/
def State.leaveTest (s : State) : State := if s.edgeLevel .testParallel = .driven then s.keepHeld else s

/-- A WIR update (R371, R373, R374). Under internal scan the stages, and under the memory test the arrays as well, hold an
undefined state. -/
def State.loadWir (s : State) (i : Wir) : State :=
  if s.aon.sealed && i.refused then
    let s := s.leaveTest.modWrap fun w => { w with wir := .bypass, pos := 0 }
    { s with aon := { s.aon with testRefused := true } }
  else
    let old := s.seen
    let was := s.intest
    let s := s.leaveTest
    let s := if i.refused then s.lock else s
    let s := s.modWrap fun w => { w.freshChain s.free with wir := i, pos := 0 }
    let s := match i with
      | .intest | .scan => s.undefineStages
      | .mbist => s.undefine
      | _ => s
    if was || s.intest then s.seeInputs old else s

/-- WS_BYPASS. -/
def execWsBypass (s : State) : Out := .next (s.loadWir .bypass)
/-- WS_EXTEST. -/
def execWsExtest (s : State) : Out := .next (s.loadWir .extest)
/-- WS_INTEST. -/
def execWsIntest (s : State) : Out := .next (s.loadWir .intest)
/-- WS_SCAN. -/
def execWsScan (s : State) : Out := .next (s.loadWir .scan)
/-- WS_MBIST. -/
def execWsMbist (s : State) : Out := .next (s.loadWir .mbist)
/-- WS_FUSE_RD. -/
def execWsFuseRd (s : State) : Out := .next (s.loadWir .fuseRd)
/-- WS_SENSOR. -/
def execWsSensor (s : State) : Out := .next (s.loadWir .sensor)

/-- WRSTN: the wrapper alone, to WS_BYPASS. -/
def execWrstn (s : State) : Out :=
  let r := s.leaveTest.modWrap fun _ => Wrapper.reset
  .next (if s.intest then r.seeInputs s.seen else r)

/-- What the cell of an input of the power and always-on groups captures; the other inputs come from outside (log entry 26). -/
def State.inputCell (s : State) (i : Nat) : Option Bool :=
  let m := s.cfg.memAckCell 0
  if i = s.cfg.vppAckCell then some s.pins.vppAck
  else if i = s.cfg.sleepReqCell then some s.pins.sleepReq
  else if i = s.cfg.hostWakeCell then some s.pins.hostWake
  else if m ≤ i ∧ i < m + s.cfg.nGroups then some (s.pins.memSleepAck.getD (i - m) false)
  else none

/-- A refused instruction that stands after SEAL shifts and captures nothing (R374). -/
def State.testShut (s : State) : Bool := s.aon.sealed && s.aon.wrap.wir.refused

/-- CAPTURE_PULSE: in WS_EXTEST the boundary register captures the inputs; under internal scan every stage captures; a
read-only register is loaded. -/
def State.capture (s : State) : State :=
  if s.testShut then s
  else match s.aon.wrap.wir with
  | .extest =>
    let n := s.cfg.wbrLen
    { s.modWrap fun w => { w with wbr := (List.range n).map fun i => (s.inputCell i).getD (Config.scanBit (s.free + i)) } with
      free := s.free + n }
  | .intest | .scan => s.undefineStages.modWrap fun w => w.freshChain s.free
  | .fuseRd | .sensor | .mbist => s.modWrap fun w => { w with pos := 0 }
  | .bypass | .reserved _ => s

/-- CAPTURE_PULSE. -/
def execCapturePulse (s : State) : Out := .next s.capture

/-- Bit i of the stream of WS_FUSE_RD: the fuse map, then the repair log, each record from its least significant bit (log
entry 26). -/
def State.fuseBit (s : State) (i : Nat) : Bool :=
  let w := if i < 64 * 1280 then Tab.get 0 s.aon.fuses.recs (i / 64) else s.aon.fuses.log.getD (i / 64 - 1280) 0
  w.toNat.testBit (i % 64)

/-- Bit i of the stream of WS_SENSOR: 64 codes of 10 bits, then the replica counts of the last survey, whose layout is free (R371, log
entry 26). -/
def State.sensorBit (s : State) (i : Nat) : Bool :=
  if i < 640 then (s.aon.sensors.getD (i / 10) 0).testBit (i % 10) else (Config.replicaBits s.blk.counts).getD (i - 640) false

/-- A chain of n stages shifts by one place: the word that goes in, the chain after, and the word that comes out (R372). -/
def Wrapper.chainShift (w : Wrapper) (n : Nat) (x : BitVec 64) : Wrapper × BitVec 64 :=
  ({ w with chain := (x :: w.chain).take n },
   if w.chain.length < n then Config.scanWord w.base w.chain.length else w.chain.getD (n - 1) 0)

/-- One shift of the selected register: wsi goes in and wso shows what comes out, or wpi and wpo for the parallel chains. -/
def State.shift (s : State) (wsi : Bool) (wpi : BitVec 64) : State :=
  let w := s.aon.wrap
  if s.testShut then s
  else match w.wir with
  | .bypass | .reserved _ => s.modWrap fun w => { w with wby := wsi, wso := w.wby }
  | .extest =>
    let n := s.cfg.wbrLen
    s.modWrap fun w => { w with wbr := wsi :: w.wbr.take (n - 1), wso := w.wbr.getD (n - 1) false }
  | .intest =>
    let r := w.chainShift (Config.serialLen + 1) (if wsi then 1 else 0)
    s.undefineStages.modWrap fun _ => { r.1 with wso := r.2.getLsbD 0 }
  | .scan =>
    let r := w.chainShift (Config.chainLen + 1) wpi
    s.undefineStages.modWrap fun _ => { r.1 with wpo := r.2 }
  | .mbist => { s.modWrap fun w => { w with wso := Config.scanBit s.free } with free := s.free + 1 }
  | .fuseRd => s.modWrap fun w => { w with pos := w.pos + 1, wso := s.fuseBit w.pos }
  | .sensor => s.modWrap fun w => { w with pos := w.pos + 1, wso := s.sensorBit w.pos }

/-- An update of the selected data register: the boundary register drives what it holds, at the outputs or, under WS_INTEST, at the
inputs. -/
def State.updateDr (s : State) : State :=
  match s.aon.wrap.wir with
  | .extest => if s.testShut then s else s.modWrap fun w => { w with driven := w.wbr }
  | .intest =>
    if s.testShut then s
    else (List.range s.cfg.nPorts).foldl State.portCycle ((s.modWrap fun w => { w with driven := w.wbr }).seeInputs s.seen)
  | _ => s

/-- WRAPPER_SHIFT. A reserved code in the instruction register acts as WS_BYPASS (R371). -/
def execWrapperShift (op : WrapOp) (s : State) : Out :=
  .next (match op with
    | .shift b p => s.shift b p
    | .update => s.updateDr
    | .reserved code => s.loadWir (.reserved code))

end Sys2Proof.Machine
end

