-- ==== Sys2Proof/Machine/Dispatch.lean ====
section
/-! DEFINITION. The dispatcher: one arm per command, each one call of its meaning. -/

namespace Sys2Proof.Machine

open Host

def exec (i : Instr) (s : State) : Host.Outcome State Fault Refusal :=
  match i with
  | .nop pk => Sys2Proof.Machine.execNop pk s
  | .fence pk => Sys2Proof.Machine.execFence pk s
  | .bind pk => Sys2Proof.Machine.execBind pk s
  | .release pk => Sys2Proof.Machine.execRelease pk s
  | .saveContext pk => Sys2Proof.Machine.execSaveContext pk s
  | .restoreContext pk => Sys2Proof.Machine.execRestoreContext pk s
  | .loadProgram pk => Sys2Proof.Machine.execLoadProgram pk s
  | .run pk => Sys2Proof.Machine.execRun pk s
  | .selectBucket pk => Sys2Proof.Machine.execSelectBucket pk s
  | .move pk => Sys2Proof.Machine.execMove pk s
  | .fillPages pk => Sys2Proof.Machine.execFillPages pk s
  | .stepBegin pk => Sys2Proof.Machine.execStepBegin pk s
  | .stepCommit pk => Sys2Proof.Machine.execStepCommit pk s
  | .phaseMark pk => Sys2Proof.Machine.execPhaseMark pk s
  | .queryCaps pk => Sys2Proof.Machine.execQueryCaps pk s
  | .readTimers pk => Sys2Proof.Machine.execReadTimers pk s
  | .readHealth pk => Sys2Proof.Machine.execReadHealth pk s
  | .marginSurvey pk => Sys2Proof.Machine.execMarginSurvey pk s
  | .setSeed pk => Sys2Proof.Machine.execSetSeed pk s
  | .writePolicy pk => Sys2Proof.Machine.execWritePolicy pk s
  | .seal pk => Sys2Proof.Machine.execSeal pk s
  | .resetTenant pk => Sys2Proof.Machine.execResetTenant pk s
  | .opass c => Sys2Proof.Machine.execOpass c s
  | .dpass c => Sys2Proof.Machine.execDpass c s
  | .tpass c => Sys2Proof.Machine.execTpass c s
  | .pfill c => Sys2Proof.Machine.execPfill c s
  | .bdrain c => Sys2Proof.Machine.execBdrain c s
  | .spill c => Sys2Proof.Machine.execSpill c s
  | .refill c => Sys2Proof.Machine.execRefill c s
  | .xfer c => Sys2Proof.Machine.execXfer c s
  | .await c => Sys2Proof.Machine.execAwait c s
  | .arm c => Sys2Proof.Machine.execArm c s
  | .chain c => Sys2Proof.Machine.execChain c s
  | .pchain c => Sys2Proof.Machine.execPchain c s
  | .mark c => Sys2Proof.Machine.execMark c s
  | .sync c => Sys2Proof.Machine.execSync c s
  | .endProgram c => Sys2Proof.Machine.execEndProgram c s
  | .autoSpill c => Sys2Proof.Machine.execAutoSpill c s
  | .autoRefill c => Sys2Proof.Machine.execAutoRefill c s
  | .passRetire c f => Sys2Proof.Machine.execPassRetire c f s
  | .plainPassRetire c f => Sys2Proof.Machine.execPlainPassRetire c f s
  | .spillComplete c f => Sys2Proof.Machine.execSpillComplete c f s
  | .slotDrainComplete c f => Sys2Proof.Machine.execSlotDrainComplete c f s
  | .drainStatusWrite c f => Sys2Proof.Machine.execDrainStatusWrite c f s
  | .forwardedMerge h => Sys2Proof.Machine.execForwardedMerge h s
  | .derivation c bank => Sys2Proof.Machine.execDerivation c bank s
  | .secondCrossing c f => Sys2Proof.Machine.execSecondCrossing c f s
  | .pageCommit c => Sys2Proof.Machine.execPageCommit c s
  | .fillPagesAtBoundary pk c => Sys2Proof.Machine.execFillPagesAtBoundary pk c s
  | .seedLoad pk c => Sys2Proof.Machine.execSeedLoad pk c s
  | .fordArrival x => Sys2Proof.Machine.execFordArrival x s
  | .reduceOnArrival x => Sys2Proof.Machine.execReduceOnArrival x s
  | .deliveryRefusal x => Sys2Proof.Machine.execDeliveryRefusal x s
  | .programEnding c => Sys2Proof.Machine.execProgramEnding c s
  | .runCompletion pk => Sys2Proof.Machine.execRunCompletion pk s
  | .selectBucketChunk pk => Sys2Proof.Machine.execSelectBucketChunk pk s
  | .packetDispatch h => Sys2Proof.Machine.execPacketDispatch h s
  | .packetUnpark pk => Sys2Proof.Machine.execPacketUnpark pk s
  | .replyWrite p => Sys2Proof.Machine.execReplyWrite p s
  | .hpSubmit p w strb => Sys2Proof.Machine.execHpSubmit p w strb s
  | .hpReplyBase p w strb => Sys2Proof.Machine.execHpReplyBase p w strb s
  | .hpReplyTail p w strb => Sys2Proof.Machine.execHpReplyTail p w strb s
  | .hpIrqStatus p w strb => Sys2Proof.Machine.execHpIrqStatus p w strb s
  | .registerWrite port off w strb => Sys2Proof.Machine.execRegisterWrite port off w strb s
  | .passFault c f pl => Sys2Proof.Machine.execPassFault c f pl s
  | .faultReplay c => Sys2Proof.Machine.execFaultReplay c s
  | .planeParityFault c f upset prow => Sys2Proof.Machine.execPlaneParityFault c f upset prow s
  | .epilogueFault c f pl => Sys2Proof.Machine.execEpilogueFault c f pl s
  | .defectRepair c => Sys2Proof.Machine.execDefectRepair c s
  | .reserveCoreBinding c => Sys2Proof.Machine.execReserveCoreBinding c s
  | .uncorrectableData r => Sys2Proof.Machine.execUncorrectableData r s
  | .correctedWriteback c pl => Sys2Proof.Machine.execCorrectedWriteback c pl s
  | .storeLineRemap c line => Sys2Proof.Machine.execStoreLineRemap c line s
  | .storeScrub c e => Sys2Proof.Machine.execStoreScrub c e s
  | .planeScrub c r => Sys2Proof.Machine.execPlaneScrub c r s
  | .valleyLineRetry l => Sys2Proof.Machine.execValleyLineRetry l s
  | .mpReadResponse q r => Sys2Proof.Machine.execMpReadResponse q r s
  | .mpWriteCompletion q n => Sys2Proof.Machine.execMpWriteCompletion q n s
  | .mpFatal q => Sys2Proof.Machine.execMpFatal q s
  | .heartbeatSend h => Sys2Proof.Machine.execHeartbeatSend h s
  | .heartbeatReceive h => Sys2Proof.Machine.execHeartbeatReceive h s
  | .silenceTimeout h => Sys2Proof.Machine.execSilenceTimeout h s
  | .otherSideOff h => Sys2Proof.Machine.execOtherSideOff h s
  | .saddleOrder h => Sys2Proof.Machine.execSaddleOrder h s
  | .tenantStateRequest h => Sys2Proof.Machine.execTenantStateRequest h s
  | .tenantStateAnswer h => Sys2Proof.Machine.execTenantStateAnswer h s
  | .tenantStateCopy h => Sys2Proof.Machine.execTenantStateCopy h s
  | .portTakeback p => Sys2Proof.Machine.execPortTakeback p s
  | .coreTakeback c => Sys2Proof.Machine.execCoreTakeback c s
  | .controlWindow watts => Sys2Proof.Machine.execControlWindow watts s
  | .vcoreAck => Sys2Proof.Machine.execVcoreAck s
  | .sensorSample codes => Sys2Proof.Machine.execSensorSample codes s
  | .domainTransition d => Sys2Proof.Machine.execDomainTransition d s
  | .pwrSleepReq level => Sys2Proof.Machine.execPwrSleepReq level s
  | .sleepEntry => Sys2Proof.Machine.execSleepEntry s
  | .memSleepAck g level => Sys2Proof.Machine.execMemSleepAck g level s
  | .wake => Sys2Proof.Machine.execWake s
  | .aonTimeTick => Sys2Proof.Machine.execAonTimeTick s
  | .timeComparator => Sys2Proof.Machine.execTimeComparator s
  | .hostWake level => Sys2Proof.Machine.execHostWake level s
  | .ageingComparator => Sys2Proof.Machine.execAgeingComparator s
  | .measurementRound ms => Sys2Proof.Machine.execMeasurementRound ms s
  | .tapChange d => Sys2Proof.Machine.execTapChange d s
  | .aonAlarm w strb => Sys2Proof.Machine.execAonAlarm w strb s
  | .aonWake w strb => Sys2Proof.Machine.execAonWake w strb s
  | .aonRef w strb => Sys2Proof.Machine.execAonRef w strb s
  | .pwrCeiling w strb => Sys2Proof.Machine.execPwrCeiling w strb s
  | .fuseProgram w strb => Sys2Proof.Machine.execFuseProgram w strb s
  | .fuseVoid w strb => Sys2Proof.Machine.execFuseVoid w strb s
  | .fuseReload w strb => Sys2Proof.Machine.execFuseReload w strb s
  | .vppAck level => Sys2Proof.Machine.execVppAck level s
  | .fuseBurnTimer => Sys2Proof.Machine.execFuseBurnTimer s
  | .repairLogClear w strb => Sys2Proof.Machine.execRepairLogClear w strb s
  | .aonPor => Sys2Proof.Machine.execAonPor s
  | .blkRst low => Sys2Proof.Machine.execBlkRst low s
  | .cpReset h low => Sys2Proof.Machine.execCpReset h low s
  | .hpRst p => Sys2Proof.Machine.execHpRst p s
  | .fuseRead => Sys2Proof.Machine.execFuseRead s
  | .init => Sys2Proof.Machine.execInit s
  | .wsBypass => Sys2Proof.Machine.execWsBypass s
  | .wsExtest => Sys2Proof.Machine.execWsExtest s
  | .wsIntest => Sys2Proof.Machine.execWsIntest s
  | .wsScan => Sys2Proof.Machine.execWsScan s
  | .wsMbist => Sys2Proof.Machine.execWsMbist s
  | .wsFuseRd => Sys2Proof.Machine.execWsFuseRd s
  | .wsSensor => Sys2Proof.Machine.execWsSensor s
  | .wrstn => Sys2Proof.Machine.execWrstn s
  | .capturePulse => Sys2Proof.Machine.execCapturePulse s
  | .refillComplete c f => Sys2Proof.Machine.execRefillComplete c f s
  | .spillPathFault c e => Sys2Proof.Machine.execSpillPathFault c e s
  | .transferLanding x => Sys2Proof.Machine.execTransferLanding x s
  | .saddleOrderCompletion h => Sys2Proof.Machine.execSaddleOrderCompletion h s
  | .mirrorUpdate h => Sys2Proof.Machine.execMirrorUpdate h s
  | .phaseOpen => Sys2Proof.Machine.execPhaseOpen s
  | .fuseReloadComplete => Sys2Proof.Machine.execFuseReloadComplete s
  | .vddCoreOutOfRange => Sys2Proof.Machine.execVddCoreOutOfRange s
  | .wrapperShift op => Sys2Proof.Machine.execWrapperShift op s

end Sys2Proof.Machine
end

