-- ==== Sys2Proof/Machine/Idle.lean ====
section
/-! DEFINITION. What one beat changes when no command waits: the busy credit of R315, and the 16 beats that follow a tap change
(R326), and nothing else (log entry 13). -/

namespace Sys2Proof.Machine

/-- The largest busy credit, in sixteenths of a beat (R315). -/
def creditCap : Int := 65536

/-- Whether a started instruction multiplies in this beat. Col passes overlap one another (R78); of Plain passes the oldest alone
does, since the engines read one page in a beat (R15, R111); while an automatic spill or refill runs none does (R86). -/
def Core.multiplies (k : Core) (f : Flight) : Bool :=
  decide (0 < f.beats) && !k.autoMove && (!f.reads || ((k.flight.find? Flight.reads).map (·.id)) == some f.id)

/-- One beat of a core: its credit gains 16 - gate, and loses 16 while a pass multiplies (R315); a beat of the settling of a tap
change passes (R326). -/
def Core.beat (gate : Nat) (k : Core) : Core :=
  let used : Int := if k.flight.any k.multiplies then 16 else 0
  { k with flight := k.flight.map fun f => if k.multiplies f then f.withBeats (f.beats - 1) else f
           credit := min creditCap (k.credit + (16 - gate : Int) - used)
           rep := { k.rep with tapBeats := k.rep.tapBeats - 1 } }

/-- One beat with no command waiting; a core that is not ON, or in reset, passes none (R312). -/
def State.idle (s : State) : State :=
  let f := fun c (k : Core) => if s.domOn c && !s.pins.blkRstLow then k.beat s.aon.power.gate.toNat else k
  { s with blk := { s.blk with cores := s.blk.cores.mapIdx f } }

end Sys2Proof.Machine
end

