-- ==== Sys2Proof/WellFormed.lean ====
section
/-! DEFINITION. Well-formed commands of a configuration: the units that a command names are built, and its operands lie in
the ranges that the tables give their fields. -/

namespace Sys2Proof

open Machine

/-- A place of a core (R63, R67, R83, R97, R334): engines 0 and 1 on Col cores with their spare row and columns, planes and
trees on Plain cores. -/
def Place.wf : Place → Bool
  | .colLane e r c _ => decide (e < 2) && decide (r < 132) && decide (c < 132)
  | .basin e s x => decide (e < 2) && decide (s < 2) && decide (x < 65536)
  | .plainMul e r => decide (e < 4) && decide (r < 520)
  | .planeRow r => decide (r < 520)
  | .tree e => decide (e < 4)
  | .unit g => decide (g < 16)
  | .fillHalf _ => true
  | .line n => decide (n < 0x60000)
  | .image n => decide (n < 9408)

/-- A place of a SEC-DED code: a store offset, or a word of 2,048 instructions, 64 chain lists and 64 Ford entries (R185, R214). -/
def EccPlace.wf : EccPlace → Bool
  | .store off => decide (off < 0x1800000)
  | .image n => decide (n < 9408)

/-- A built core, by its number (R16). -/
def Machine.Configuration.hasCore (k : Configuration) (c : Nat) : Bool := decide (c < k.nCores)

/-- A built Col core, which has an even number, and a built Plain core, which has an odd one (R16). -/
def Machine.Configuration.hasCol (k : Configuration) (c : Nat) : Bool := k.hasCore c && decide (c % 2 = 0)
def Machine.Configuration.hasPlain (k : Configuration) (c : Nat) : Bool := k.hasCore c && decide (c % 2 = 1)

def Machine.Configuration.hasHalf (k : Configuration) (h : Half) : Bool := decide (h = .west) || k.hasEast

/-- The host ports (R238). -/
def hostPort (p : Nat) : Bool := decide (p < 8)

/-- Both halves are built, and this is one of them (R275). -/
def Machine.Configuration.hasLink (k : Configuration) (_ : Half) : Bool := k.hasEast

/-- Ring counts of R324: the replica ring counts at least once; a band has 33 columns (R327). -/
def Measure.wf (k : Configuration) (m : Measure) : Bool :=
  decide (m.dom < k.nDoms) && decide (m.grp < 16) && decide (0 < m.nm) && decide (m.col < 33)

def Receiver.wf (k : Configuration) : Receiver → Bool
  | .transfer _ _ => true
  | .drain c _ _ w => k.hasCore c && (w.all fun x => decide (x < 0x300000))
  | .pass c _ w => k.hasCore c && (w.all fun x => decide (x < 0x300000))
  | .fill c => k.hasPlain c
  | .program c _ => k.hasCore c

/-- Whether a command names only units of configuration k and operands within their ranges. Packets, transfers and started
instructions are named by number; a number that stands for none is a command with nothing to act on. -/
def Instr.wf (k : Configuration) : Instr → Bool
  | .nop _ => true
  | .fence _ => true
  | .bind _ => true
  | .release _ => true
  | .saveContext _ => true
  | .restoreContext _ => true
  | .loadProgram _ => true
  | .run _ => true
  | .selectBucket _ => true
  | .move _ => true
  | .fillPages _ => true
  | .stepBegin _ => true
  | .stepCommit _ => true
  | .phaseMark _ => true
  | .queryCaps _ => true
  | .readTimers _ => true
  | .readHealth _ => true
  | .marginSurvey _ => true
  | .setSeed _ => true
  | .writePolicy _ => true
  | .seal _ => true
  | .resetTenant _ => true
  | .opass c => k.hasCol c
  | .dpass c => k.hasPlain c
  | .tpass c => k.hasPlain c
  | .pfill c => k.hasPlain c
  | .bdrain c => k.hasCore c
  | .spill c => k.hasCol c
  | .refill c => k.hasCol c
  | .xfer c => k.hasCore c
  | .await c => k.hasCore c
  | .arm c => k.hasCore c
  | .chain c => k.hasCore c
  | .pchain c => k.hasCore c
  | .mark c => k.hasCore c
  | .sync c => k.hasCore c
  | .endProgram c => k.hasCore c
  | .autoSpill c => k.hasCol c
  | .autoRefill c => k.hasCol c
  | .passRetire c _ => k.hasCol c
  | .plainPassRetire c _ => k.hasPlain c
  | .spillComplete c _ => k.hasCol c
  | .slotDrainComplete c _ => k.hasCore c
  | .drainStatusWrite c _ => k.hasCore c
  | .forwardedMerge h => k.hasHalf h
  | .derivation c bank => k.hasCore c && decide (bank < 2)
  | .secondCrossing c _ => k.hasCore c
  | .pageCommit c => k.hasPlain c
  | .fillPagesAtBoundary _ c => k.hasPlain c
  | .seedLoad _ c => k.hasCore c
  | .fordArrival _ => true
  | .reduceOnArrival _ => true
  | .deliveryRefusal _ => true
  | .programEnding c => k.hasCore c
  | .runCompletion _ => true
  | .selectBucketChunk _ => true
  | .packetDispatch h => k.hasHalf h
  | .packetUnpark _ => true
  | .replyWrite p => hostPort p
  | .hpSubmit p _ _ => hostPort p
  | .hpReplyBase p _ _ => hostPort p
  | .hpReplyTail p _ _ => hostPort p
  | .hpIrqStatus p _ _ => hostPort p
  | .registerWrite port _ _ _ => (match port with | some p => hostPort p | none => true)
  | .passFault c _ pl => k.hasCore c && pl.wf
  | .faultReplay c => k.hasCore c
  | .planeParityFault c _ u prow => k.hasPlain c && (u.all fun x => decide (x < 2 ^ 28)) && decide (prow < 520)
  | .epilogueFault c _ pl => k.hasCore c && pl.wf
  | .defectRepair c => k.hasCore c
  | .reserveCoreBinding c => k.hasCore c
  | .uncorrectableData r => r.wf k
  | .correctedWriteback c pl => k.hasCore c && pl.wf
  | .storeLineRemap c line => k.hasCore c && decide (line < 2 ^ 26)
  | .storeScrub c _ => k.hasCore c
  | .planeScrub c r => k.hasPlain c && (r.upset.all fun x => decide (x < 2 ^ 28)) && decide (r.prow < 520)
  | .valleyLineRetry _ => true
  | .mpReadResponse q r => decide (q < k.nPorts) && decide (r.tag < 256) && decide (r.idx + r.lines.length ≤ 64)
  | .mpWriteCompletion q _ => decide (q < k.nPorts)
  | .mpFatal q => decide (q < k.nPorts)
  | .heartbeatSend h => k.hasLink h
  | .heartbeatReceive h => k.hasLink h
  | .silenceTimeout h => k.hasLink h
  | .otherSideOff h => k.hasLink h
  | .saddleOrder h => k.hasLink h
  | .tenantStateRequest h => k.hasLink h
  | .tenantStateAnswer h => k.hasLink h
  | .tenantStateCopy h => k.hasLink h
  | .portTakeback p => hostPort p
  | .coreTakeback c => k.hasCore c
  | .controlWindow _ => true
  | .vcoreAck => true
  | .sensorSample codes => decide (codes.length = 64) && codes.all fun x => decide (x < 1024)
  | .domainTransition d => decide (d < k.nDoms)
  | .pwrSleepReq _ => true
  | .sleepEntry => true
  | .memSleepAck g _ => decide (g < k.nGroups)
  | .wake => true
  | .aonTimeTick => true
  | .timeComparator => true
  | .hostWake _ => true
  | .ageingComparator => true
  | .measurementRound ms => ms.all (Measure.wf k)
  | .tapChange d => decide (d < k.nDoms)
  | .aonAlarm _ _ => true
  | .aonWake _ _ => true
  | .aonRef _ _ => true
  | .pwrCeiling _ _ => true
  | .fuseProgram _ _ => true
  | .fuseVoid _ _ => true
  | .fuseReload _ _ => true
  | .vppAck _ => true
  | .fuseBurnTimer => true
  | .repairLogClear _ _ => true
  | .aonPor => true
  | .blkRst _ => true
  | .cpReset h _ => k.hasHalf h
  | .hpRst p => hostPort p
  | .fuseRead => true
  | .init => true
  | .wsBypass => true
  | .wsExtest => true
  | .wsIntest => true
  | .wsScan => true
  | .wsMbist => true
  | .wsFuseRd => true
  | .wsSensor => true
  | .wrstn => true
  | .capturePulse => true
  | .refillComplete c _ => k.hasCol c
  | .spillPathFault c e => k.hasCol c && e.place.wf
  | .transferLanding _ => true
  | .saddleOrderCompletion h => k.hasLink h
  | .mirrorUpdate h => k.hasLink h
  | .phaseOpen => true
  | .fuseReloadComplete => true
  | .vddCoreOutOfRange => true
  | .wrapperShift op => (match op with | .reserved code => decide (7 ≤ code.toNat) | _ => true)

end Sys2Proof
end

