-- ==== Sys2Proof/Safety.lean ====
section
/-! DEFINITION. What the statements call a state in the form of its configuration, a unit that is there, a core that may start
an instruction, and a packet that may execute. -/

namespace Sys2Proof.Machine

open Host

/-- Every list of the state has the length that the configuration and the tables give it (R16, R17, R238, R260, R277, R310). -/
def State.shaped (s : State) : Bool :=
  decide (s.hp.length = 8) && decide (s.blk.cores.length = s.cfg.nCores) && decide (s.blk.served.length = s.cfg.nCores)
    && decide (s.blk.ports.length = s.cfg.nPorts) && decide (s.aon.doms.length = s.cfg.nDoms)
    && decide (s.pins.memSleepAck.length = s.cfg.nGroups) && decide (s.aon.policy.length = 113)

/-- k is core c, which the configuration builds. -/
def State.Has (s : State) (c : Nat) (k : Core) : Prop := c < s.cfg.nCores ∧ s.core? c = some k

/-- The sequencer of core c, which is k, may start the instruction t at its pc, of opcode op: the core runs a program, nothing
holds its sequencer, and fence and Ford allow the start (R187, R189, R194, R196, R208). -/
def State.Starts (s : State) (c : Nat) (op : Op) (k : Core) (t : TI) : Prop :=
  s.Has c k ∧ k.starting = true ∧ k.current op = some t ∧ k.startable t = true

/-- A packet of opcode op that has been dispatched and unparked, has acted on no core yet, passes every check, and whose command
processor works, and whose order has been sent where it needs one (R246, R248, R275). -/
def State.Executes (s : State) (p : Packet) (op : Nat) : Prop :=
  s.pkt? p.id = some p ∧ p.opcode = op ∧ s.cpRuns p.half = true ∧ p.st = .ready ∧ s.holds p = false ∧ s.needsOrder p = false
    ∧ s.judge p = none ∧ s.fencedBad p = none ∧ p.acted = []

/-- The packet as its execution starts: it translates with the live half that holds then (R290). -/
def State.started (s : State) (p : Packet) : Packet :=
  { p with st := .acting, live := ((s.cp p.half).ts.ten p.tenant).live, todo := p.named s }

/-- The packet as it stands when it has acted on its cores in one step (R247). -/
def State.acting (s : State) (p : Packet) : Packet :=
  { s.started p with st := .running, todo := [], acted := p.named s }

/-- A packet of opcode op whose action on its cores is done and whose command processor works. -/
def State.Acted (s : State) (p : Packet) (op : Nat) : Prop :=
  s.pkt? p.id = some p ∧ p.opcode = op ∧ s.cpRuns p.half = true ∧ p.st = .running

/-- What the other command processor must report for the packet has arrived, or it acts on no core there (R276). -/
def Packet.reported (p : Packet) : Bool := !p.ordered || (p.orderSent && p.orderDone)

/-- The command processor of the packet applies tenant state itself: it is not a follower, and it may apply it now (R277, R278,
R283, R284). -/
def State.leads (s : State) (p : Packet) : Bool :=
  !s.tsHeld p && !(s.aon.sealed && s.cfg.hasEast && decide (s.role p.half = .follower))

/-- u is s with the packet gone and its reply held for its port, or, where the reply is a quiet OK, with its credit returned
(R241 to R243). -/
def State.Replied (s u : State) (p : Packet) (st : Status) (dkind detail : Nat) (data : Word) : Prop :=
  u.pkt? p.id = none ∧
    if p.quiet && decide (st = .ok) then u.blk.replies = s.blk.replies ∧ u.hp = (s.creditBack p.port).hp
    else u.hp = s.hp ∧
      u.blk.replies = s.blk.replies ++ [⟨p.port, replyWord p st.code dkind detail, if carriesData st.code then data else 0, 0⟩]

/-- u has the cores of s, and of those listed the ones that no other packet waits for may start instructions again (R208). -/
def State.GoOn (s u : State) (id : Nat) (cs : List Nat) : Prop :=
  ∀ c, u.core? c = (s.core? c).map fun k =>
    if c ∈ cs ∧ s.wanted id c = false then { k with run := { k.run with hold := false } } else k

/-- k' is k once the parameter line of a packet has been delivered, if it asks for one: 64 bytes at the base of the Ford that it
names, and one arrival there (R256). -/
def Core.TookLine (k k' : Core) (p : Packet) (line : List Word) : Prop :=
  let n := fld p.hdr 5 0
  if bitOf p.hdr 6 then
    ∀ w, k.fordEntry n = some w → n < k.fords.length →
      k'.store = k.store.wrAll (wordBytes (fordBase w) line) ∧ (k'.ford n).count = (k.ford n).count + 1
        ∧ ∀ m, m ≠ n → k'.ford m = k.ford m
  else k'.store = k.store ∧ k'.fords = k.fords

/-- What a fill asks for: source, class, page, and the instruction or packet that it serves. -/
def Fill.ask (f : Fill) : Nat × Nat × Nat × Option Nat × Option Nat := (f.src, f.cls, f.page, f.flight, f.pk)

/-- Credits of host port p, packets submitted there whose credit has not returned, replies held for it, and one for a packet
under assembly (R241). -/
def State.creditSum (s : State) (p : Nat) : Nat :=
  let h := s.hp.getD p .reset
  h.credits + (s.blk.pkts.filter fun q => q.port == p).length + (s.blk.replies.filter fun r => r.port == p).length
    + (if h.asm.isEmpty then 0 else 1)

/-- A state in the form of its configuration, with fabric memory in its canonical form. -/
def State.Formed (s : State) : Prop := s.shaped = true ∧ s.mem.wf = true

/-- Packets are told apart by their numbers and came through a host port, and every port's 16 credits are accounted for; while
blk_rst_n is low there is no packet and no reply, so that the credits stand at the ports alone, which are isolated (R241, R360,
R364). -/
def State.CreditsHeld (s : State) : Prop :=
  s.hp.length = 8 ∧ (s.blk.pkts.map (·.id)).Nodup ∧ (∀ q ∈ s.blk.pkts, q.id < s.blk.nextPk ∧ q.port < 8)
    ∧ (∀ p, p < 8 → s.creditSum p = 16)
    ∧ (s.pins.blkRstLow = true → s.blk.pkts = [] ∧ s.blk.replies = [] ∧ (s.aon.phase = .reset ∨ s.aon.phase = .scanLock))

/-- A sealed state holds the CRC and the lead half of its policy, as SEAL leaves them (R263). -/
def State.SealKept (s : State) : Prop :=
  s.aon.sealed = true → s.aon.policyCrc = s.polCrc ∧ s.aon.leadHalf = s.polLeadEast

/-- A transfer that a packet owns is of a MOVE, which acts on no core by itself (R254). -/
def State.MoveOwned (s : State) (x : Transfer) : Prop :=
  ∀ pk p, x.owner = .packet pk → s.pkt? pk = some p → p.opcode = 0x30 ∧ p.todo = [] ∧ p.acted = []

/-- Start transfers, first to last: tenant, owner, destination, load. -/
def State.sendAll (s : State) (l : List (Nat × Owner × Loc × Payload)) : State :=
  l.foldl (fun s x => s.startXfer x.1 x.2.1 x.2.2.1 x.2.2.2) s

/-- Commands after which the domains other than the always-on domain hold free values (R358, R372). -/
def undefines : Instr → Bool
  | .vddCoreOutOfRange | .wsIntest | .wsScan | .wsMbist => true
  | _ => false

/-- The same in state s: a capture and a shift set every stage while WS_INTEST or WS_SCAN is loaded (R372). -/
def State.undefines (s : State) : Instr → Bool
  | .capturePulse | .wrapperShift (.shift _ _) => decide (s.aon.wrap.wir = .intest) || decide (s.aon.wrap.wir = .scan)
  | i => Machine.undefines i

/-- Resets of the whole block (R321, R360). -/
def resetsBlock : Instr → Bool
  | .aonPor | .blkRst _ => true
  | _ => false

/-! ### Isolation (R273) -/

/-- The values that a core holds for its tenant: store, program image, generator, Basin, banks, Fords, accumulator rows, weight plane
and slot records. -/
def Core.values (k : Core) :=
  (k.store, k.img, k.gen, k.slots.map (·.acc), k.banks, k.fords, k.plain.colAcc, k.plain.treeAcc, k.plain.rowExc, k.plain.plane,
    k.plain.recs)

/-- Commands of the whole block that leave every core new or free values: resets, INIT, a supply out of range, and the test of the
domains. -/
def renewsCores : Instr → Bool
  | .init | .capturePulse | .wrapperShift _ => true
  | i => undefines i || resetsBlock i

/-- The core whose own row a command is: its tile instructions, what goes on in it, its faults and repairs, and its power. -/
def rowCore : Instr → Option Nat
  | .opass c | .dpass c | .tpass c | .pfill c | .bdrain c | .spill c | .refill c | .xfer c | .await c | .arm c | .chain c
  | .pchain c | .mark c | .sync c | .endProgram c | .autoSpill c | .autoRefill c | .passRetire c _ | .plainPassRetire c _
  | .spillComplete c _ | .refillComplete c _ | .slotDrainComplete c _ | .drainStatusWrite c _ | .derivation c _ | .secondCrossing c _ | .pageCommit c
  | .programEnding c | .passFault c _ _ | .faultReplay c | .planeParityFault c _ _ _ | .epilogueFault c _ _
  | .spillPathFault c _ | .defectRepair c | .reserveCoreBinding c | .correctedWriteback c _ | .storeLineRemap c _
  | .storeScrub c _ | .planeScrub c _ | .uncorrectableData (.drain c _ _ _) | .uncorrectableData (.pass c _ _)
  | .uncorrectableData (.fill c) | .uncorrectableData (.program c _) | .domainTransition c => some c
  | _ => none

/-- The packet that a command row executes. -/
def rowPacket : Instr → Option Nat
  | .bind pk | .release pk | .saveContext pk | .restoreContext pk | .loadProgram pk | .run pk | .selectBucket pk
  | .fillPages pk | .setSeed pk | .resetTenant pk | .fillPagesAtBoundary pk _ | .seedLoad pk _ | .selectBucketChunk pk => some pk
  | _ => none

/-- Command i executes packet p on core c: the packet starts here, with every check of its authority passed, or it has started and
acts on the core. -/
def State.ActsOn (s : State) (i : Instr) (p : Packet) (c : Nat) : Prop :=
  rowPacket i = some p.id ∧ s.pkt? p.id = some p
    ∧ ((p.st = .ready ∧ s.judge p = none ∧ c ∈ p.named s) ∨ ((p.st = .acting ∨ p.st = .running) ∧ c ∈ p.todo ++ p.acted))

/-- Command i delivers bytes of tenant t to a destination: a transfer lands, or ends at bad data, or a drain of a program of t is
stopped there. -/
def State.Delivers (s : State) (i : Instr) (t : Nat) (dst : Loc) : Prop :=
  (∃ n x, (i = .transferLanding n ∨ i = .fordArrival n ∨ i = .reduceOnArrival n ∨ ∃ pos, i = .uncorrectableData (.transfer n pos))
      ∧ s.xfer? n = some x ∧ x.tenant = t ∧ x.dst = dst)
    ∨ ∃ c f k id idx d, (i = .slotDrainComplete c f ∨ i = .secondCrossing c f
        ∨ ∃ e w, i = .uncorrectableData (.drain c f e w)) ∧ s.core? c = some k ∧ k.flight? f = some ⟨id, idx, .drain d⟩
      ∧ k.run.tenant = t ∧ d.ti.drainLoc c = dst

/-- The core of a delivery takes bytes of tenant t: it is bound to t, or the delivery is of guest vectors that its tenant
shares with t (R117, R225). -/
def State.Accepts (s : State) (t c : Nat) (dst : Loc) : Prop :=
  s.boundTo c = some t
    ∨ ∃ n off o, dst = .ford c n off ∧ s.boundTo c = some o ∧ s.guestOk ((s.core? c).getD .reset) o t n = true

/-- The core of a destination. -/
def locCore : Loc → Option Nat
  | .fabric _ => none
  | .store c _ | .ford c _ _ => some c

end Sys2Proof.Machine
end

