-- ==== Sys2Proof/Certificates/Slice0/Obligations.lean ====
section
/-! DEFINITION. The statements about the model: how a step runs a command, what each command does, what no step breaks. -/

open Sys2Proof Sys2Proof.Machine

/-! ### The whole machine -/

/-- A step takes the command at the front of the queue and runs it on the state with the queue's rest; on an empty queue one
beat passes, in which the busy credit of every core that is ON changes by R315, every pass that multiplies there (none while
an automatic move runs, and of the Plain passes the oldest alone: R15, R86) and the settling of a tap change have one beat fewer
left (R326), and nothing else changes (the model's choice, log entry 13). -/
def Obligations.StepRunsTheFrontCommand : Prop :=
  (∀ (s : State) (i : Instr) (rest : List Instr), step { s with pending := i :: rest } = exec i { s with pending := rest })
  ∧ (∀ (s : State), s.pending = [] → ∃ u, step s = .next u ∧ u = { s with blk := { s.blk with cores := u.blk.cores } }
    ∧ ∀ c k, s.core? c = some k → u.core? c = some
        (if s.domOn c = true ∧ s.pins.blkRstLow = false then { k with
          flight := k.flight.map fun f => if k.multiplies f then f.withBeats (f.beats - 1) else f
          credit := min 65536 (k.credit + (16 - s.aon.power.gate.toNat) -
            (if k.flight.any k.multiplies then 16 else 0))
          rep := { k.rep with tapBeats := k.rep.tapBeats - 1 } }
        else k))

/-- R61, R238, R263, R321, R360, R365: what reset leaves: phase RESET with blk_rst_n low, every host port with 16 credits
and no interrupt, no policy and no seal, the always-on registers at the values of their tables, every core EMPTY, and the
state in its form with every credit held. The phase and the pin's level there are the model's choice (log entry 3). -/
def Obligations.ResetLeaves : Prop :=
  let s := State.reset
  s.aon.phase = .reset ∧ s.pins.blkRstLow = true ∧ s.pending = []
    ∧ (∀ p, p < 8 → ∃ h, s.hp[p]? = some h ∧ h.credits = 16 ∧ h.irq = 0 ∧ h.mask = 0 ∧ h.en = false ∧ h.asm = [])
    ∧ s.aon.sealed = false ∧ s.aon.policyCrc = 0 ∧ (∀ i, s.pw i = 0) ∧ s.aon.epochW = 0 ∧ s.aon.epochE = 0
    ∧ s.aon.time = 0 ∧ s.aon.refKhz = 0x2710 ∧ s.aon.armed = false ∧ s.aon.therm = 0x2A4 ∧ s.aon.wakeEn = 0xF
    ∧ s.aon.cause = 0 ∧ s.aon.busy = 0 ∧ s.aon.power.tjLimit = 0x290 ∧ s.aon.power.vmax = 0x46
    ∧ s.aon.power.vreq = 0x32 ∧ s.aon.power.floor = 0x0A ∧ s.aon.power.gate = 0
    ∧ (∀ c, c < s.cfg.nCores → ∃ k, s.core? c = some k ∧ k.run.state = .empty ∧ k.run.runs = 0 ∧ k.flight = [])
    ∧ s.Formed ∧ s.CreditsHeld

/-- R16, R17, R234, R238, R260, R277, R310: every step keeps the configuration, every list at the length that the
configuration gives it, and fabric memory in its canonical form. -/
def Obligations.StepKeepsTheForm : Prop :=
  ∀ (s t : State), s.Formed → step s = .next t → t.Formed ∧ t.cfg = s.cfg

/-- R260, R263: once the policy is sealed it stands: no step but a reset of the whole block changes a policy word, its CRC,
the lead half or the seal, in every state that SEAL has left; and every step leaves such a state: the CRC and the lead half
of a sealed state are those of its policy. -/
def Obligations.SealedPolicyStands : Prop :=
  (∀ (s t : State), s.SealKept → s.aon.sealed = true → step s = .next t →
    (∀ i rest, s.pending = i :: rest → resetsBlock i = false) →
    t.aon.sealed = true ∧ t.aon.policy = s.aon.policy ∧ t.aon.policyCrc = s.aon.policyCrc ∧ t.aon.leadHalf = s.aon.leadHalf)
  ∧ (∀ (s t : State), s.SealKept → step s = .next t → t.SealKept)
  ∧ State.reset.SealKept

/-- R16 to R18, R310: every command has a meaning: one that names only units of the configuration, with operands in their
ranges, is answered with a next state; none is refused, and the only fault is noSuchUnit, of a command whose operands name a unit
that is not built or lie outside their ranges. That such a command faults is the model's choice (log entry 9). -/
def Obligations.WellFormedCommandsAnswer : Prop :=
  ∀ (s : State) (i : Instr),
    (i.wf s.cfg = true → ∃ t, exec i s = .next t) ∧ (∀ r, exec i s ≠ .refused r)
    ∧ (∀ f, exec i s = .fault f → f = .noSuchUnit ∧ i.wf s.cfg = false)

/-- R241: credits are conserved: in every step but one that leaves the domains undefined (R358; R372, under WS_INTEST and
WS_SCAN a capture and a shift too), the 16 credits of every host port are those it shows, those of its submitted packets and
waiting replies, and one for a packet under assembly; and while blk_rst_n is low, no packet and no reply is there. -/
def Obligations.CreditsAreConserved : Prop :=
  ∀ (s t : State), s.CreditsHeld → step s = .next t → (∀ i rest, s.pending = i :: rest → s.undefines i = false) →
    t.CreditsHeld

/-- R16: the counts of CAPS0 number the cores: even numbers are Col cores and odd ones Plain cores; with two command
processors the lower half of the numbers belongs to West and the upper half to East, with one every core belongs to West. -/
def Obligations.CoresAreNumbered : Prop :=
  ∀ (k : Configuration),
    k.nCores = fld k.caps0 7 0 + fld k.caps0 15 8
    ∧ ((List.range k.nCores).filter isCol).length = fld k.caps0 7 0
    ∧ ((List.range k.nCores).filter fun c => !isCol c).length = fld k.caps0 15 8
    ∧ (∀ c, isCol c = true ↔ c % 2 = 0)
    ∧ (fld k.caps0 25 24 = 2 → ∀ c, c < k.nCores → k.halfOf c = if c < k.nCores / 2 then .west else .east)
    ∧ (fld k.caps0 25 24 = 1 → ∀ c, k.halfOf c = .west)

/-- R35: a DF8 code decodes to (-1)^s (1 + f/8) 2^(e - 8) for e from 1 to 15, 0x80 to the single NaN, and zero or a
non-canonical code to zero; so there is no infinity and no negative zero, and no conversion into DF8 yields a non-canonical
code. The largest finite magnitude is 240 and the smallest normal one 2^-7. -/
def Obligations.Df8CodesDecode : Prop :=
  (∀ (c blk : Nat) (fl : Bool), c < 256 →
    (1 ≤ c / 8 % 16 → decodeElem .df8 fl blk c = .fin (decide (128 ≤ c)) (8 + c % 8) ((c / 8 % 16 : Nat) - 8 - 3))
    ∧ (c = 0x80 → decodeElem .df8 fl blk c = .nan false)
    ∧ (c / 8 % 16 = 0 → c ≠ 0x80 → decodeElem .df8 fl blk c = .zero false))
  ∧ (∀ (rnd : Rnd) (sat fl : Bool) (draw : Nat) (v : FV), draw < 65536 →
    let c := (convert .df8 rnd sat fl draw v).1
    c < 256 ∧ (c = 0 ∨ c = 0x80 ∨ 1 ≤ c / 8 % 16))
  ∧ decodeElem .df8 false 0 0x7F = .fin false 15 4 ∧ decodeElem .df8 false 0 0x08 = .fin false 8 (-10)

/-- R234: the interleave hash is one-to-one: it takes every address of the external window to an active port and a place in
its stack that lead back to it, and every backed place of an active port is the image of one address; and it gives the ports
of the manual's example. -/
def Obligations.InterleaveIsOneToOne : Prop :=
  (∀ (A : List Nat) (a : Nat), A.Nodup → A ≠ [] → a < 2 ^ 41 →
    (portOf A a).1 ∈ A ∧ addrOf A (portOf A a).1 (portOf A a).2 = some a)
  ∧ (∀ (A : List Nat) (p loc : Nat), A.Nodup → A.length ≤ 20 → p ∈ A → loc < 0x1800000 * 4096 →
    ∃ a, a < 2 ^ 41 ∧ addrOf A p loc = some a ∧ portOf A a = (p, loc))
  ∧ portOf (List.range 20) 0x12345678 = (12, 0xE90678) ∧ (portOf (List.range 20) 0x12346000).1 = 13
  ∧ (portOf (List.range 10) 0x12345678).1 = 9

/-! ### Tile instructions -/

/-- R196, R206, R213: AWAIT, ARM, CHAIN, PCHAIN and MARK that may start change their own core alone: the instruction's own
effect, the consumption of a firing, and the next pc. R102, R196: ARM with a target other than 0 takes the consumption of
its own start first, then the clear, then T; a Ford that fires by it, or fires anew by the consumption, fixes its batch size
from its header word. No Ford but the one armed and the one consumed changes. That a Ford which stays fired
after a consumption fires anew and fixes its batch size then, in these and in every start, is the model's reading (log entry
16). -/
def Obligations.ControlInstructionsComplete : Prop :=
  (∀ (s : State) (c : Nat) (k : Core) (t : TI),
      (s.Starts c .await k t → exec (.await c) s = .next (s.setCore c (k.advance t)))
      ∧ (s.Starts c .arm k t → exec (.arm c) s = .next (s.setCore c ((k.advance t).arm t)))
      ∧ (s.Starts c .chain k t → exec (.chain c) s =
          .next (s.setCore c { k.advance t with lists := k.lists.set 0 (if t.listEmpty then none else some t.listIdx) }))
      ∧ (s.Starts c .pchain k t → exec (.pchain c) s =
          .next (s.setCore c { k.advance t with
            lists := if t.listEmpty then k.lists.set t.pTarget none
              else k.lists.set (k.listTarget t.listIdx) (some t.listIdx) }))
      ∧ (s.Starts c .mark k t → exec (.mark c) s = .next (s.setCore c { k.advance t with
          phases := k.phases.modify t.markId fun p =>
            ⟨BitVec.ofNat 8 (satAdd 8 p.marks.toNat 1), s.aon.time⟩ })))
  ∧ (∀ (s : State) (c : Nat) (k : Core) (t : TI) (f : FordSt), s.Starts c .arm k t → t.armTarget ≠ 0 →
      k.fords[t.armFord]? = some f →
      let own := t.consume ∧ t.waitFord = t.armFord
      let f1 : FordSt := if own then { f with count := f.count - BitVec.ofNat 24 f.target.toNat } else f
      ∃ (u : State) (k' : Core) (g : FordSt), exec (.arm c) s = .next u ∧ u.core? c = some k' ∧ k'.fords[t.armFord]? = some g
        ∧ g.count = (if t.armClear then 0 else f1.count) ∧ g.target = BitVec.ofNat 16 t.armTarget ∧ g.guests = f.guests
        ∧ g.batch = (if (g.fired = true ∧ f1.fired = false) ∨ (own ∧ f1.fired = true) then
            BitVec.ofNat 7 (fld (k.store.word (fordBase ((k.fordEntry t.armFord).getD (0, 0)))) 6 0) else f.batch)
        ∧ (∀ n, n ≠ t.armFord → ¬(t.consume ∧ n = t.waitFord) → k'.fords[n]? = k.fords[n]?)
        ∧ k'.store = k.store ∧ k'.slots = k.slots ∧ u.mem = s.mem ∧ u.aon = s.aon
        ∧ ∀ d, d ≠ c → u.core? d = s.core? d)

/-- R191: the loop-back of a started AWAIT chooses the next pc and sets its own counter; every other counter stands. R191:
from an inactive counter a loop-back goes to its target loop_rep times, then falls through with its counter inactive again:
the body runs loop_rep + 1 times. -/
def Obligations.LoopBacksChooseTheNextInstruction : Prop :=
  (∀ (s : State) (c : Nat) (k : Core) (t : TI), s.Starts c .await k t →
      ∃ (u : State) (k' : Core), exec (.await c) s = .next u ∧ u.core? c = some k'
        ∧ (∀ l, l ≠ t.loopLvl → k'.loops[l]? = k.loops[l]?)
        ∧ (t.loopOp ≠ 1 → k'.run.pc = k.run.pc + 1 ∧ k'.loops = k.loops)
        ∧ (t.loopOp = 1 → k.loops[t.loopLvl]? = some none → t.loopRep = 0 →
            k'.run.pc = k.run.pc + 1 ∧ k'.loops = k.loops)
        ∧ (t.loopOp = 1 → k.loops[t.loopLvl]? = some none → t.loopRep ≠ 0 →
            k'.run.pc = t.loopTarget ∧ k'.loops[t.loopLvl]? = some (some (BitVec.ofNat 16 (t.loopRep - 1))))
        ∧ (t.loopOp = 1 → k.loops[t.loopLvl]? = some (some 0) →
            k'.run.pc = k.run.pc + 1 ∧ k'.loops[t.loopLvl]? = some none)
        ∧ (∀ n, t.loopOp = 1 → k.loops[t.loopLvl]? = some (some n) → n ≠ 0 →
            k'.run.pc = t.loopTarget ∧ k'.loops[t.loopLvl]? = some (some (n - 1))))
  ∧ (∀ (k : Core) (t : TI), t.loopOp = 1 → k.loops[t.loopLvl]? = some none →
      let back := fun (j : Core) => { j.nextPc t with run := { (j.nextPc t).run with pc := k.run.pc } }
      (∀ n, n < t.loopRep → (Core.nextPc (back^[n] k) t).run.pc = t.loopTarget)
      ∧ (Core.nextPc (back^[t.loopRep] k) t).run.pc = k.run.pc + 1
      ∧ (Core.nextPc (back^[t.loopRep] k) t).loops = k.loops)

/-- R206, R250: a SYNC whose core has settled starts with no effect of its own: it consumes a firing and chooses the next
instruction as any start does; an END there consumes a firing and ends the program: the run's status and END's own index (the
model's reading, log entry 16) stand in CORE_RUN_STATUS, the count of runs goes up, and the packet of the run gets the core's
result. R194, R118, R165: a core whose program has an ending set ends it once its started instructions have retired:
CORE_RUN_STATUS holds the ending's status and index, and the packet of the run gets the core's result; the guest vectors that
a drain has not sent stay open, and where a POISON_CHECK of an instruction that never retires has fired, or may have (a value
it saw is undefined), its tenant's step-poison is set at once. -/
def Obligations.ProgramsEnd : Prop :=
  (∀ (s : State) (c : Nat) (k : Core) (t : TI), s.settled c k = true →
      (s.Starts c .sync k t → exec (.sync c) s = .next (s.setCore c (k.advance t)))
      ∧ (s.Starts c .fin k t →
          ∃ u, exec (.endProgram c) s = .next u
            ∧ u.core? c = some { k.consume t with
                run := { k.run with
                  status := BitVec.ofNat 8 k.run.endStatus.code, failIdx := k.run.pc
                  state := if k.run.unloaded = 0 then .loaded else .empty
                  runs := k.run.runs + 1, ending := none, pkt := none }
                flight := [], area := none }
            ∧ (∀ d, d ≠ c → u.core? d = s.core? d)
            ∧ u.mem = s.mem ∧ u.aon = s.aon ∧ u.hp = s.hp ∧ u.blk.replies = s.blk.replies
            ∧ (∀ i p, k.run.pkt = some i → s.pkt? i = some p → u.pkt? i = some { p with
                results := p.results ++
                  [⟨c, BitVec.ofNat 8 k.run.endStatus.code, k.run.pc, k.run.fault, k.run.exc, k.rep.coreFenced⟩] })))
  ∧ (∀ (s : State) (c : Nat) (k : Core) (st : BitVec 8) (idx : Nat), s.Has c k → k.run.ending = some (st, idx) →
      k.quiet = true → k.run.state = .running →
      ∃ u, exec (.programEnding c) s = .next u
        ∧ u.core? c = some { k with
            run := { k.run with
              status := st, failIdx := idx, state := if k.run.unloaded = 0 then .loaded else .empty
              runs := k.run.runs + 1, ending := none, pkt := none }
            flight := [], area := none
            plain := { k.plain with orphans := k.plain.orphans ++ k.flight.flatMap Flight.guests } }
        ∧ (∀ d, d ≠ c → u.core? d = s.core? d) ∧ u.mem = s.mem ∧ u.aon = s.aon ∧ u.hp = s.hp
        ∧ (s.role (s.servedBy c) = .lead → ∀ t ∈ (k.flight.map (k.polled s.free)).flatMap (Flight.poisons k.run.tenant),
            t < s.auth.tens.length → (u.auth.ten t).poison = true)
        ∧ (∀ i p, k.run.pkt = some i → s.pkt? i = some p →
            u.pkt? i = some { p with results := p.results ++ [⟨c, st, idx, k.run.fault, k.run.exc, k.rep.coreFenced⟩] }))

/-- R78, R85, R199, R336: an OPASS whose engines can take it (busy credit not negative, no automatic move, one mode, its
tags ready) starts: its slots hold what `enginePasses` adds, it is recorded as started, and the sequencer goes on; nothing
outside the core changes. Its products stand from its start on, and it is recorded whether store bytes that it reads are owed
by another (the model's choice, log entry 8). Where a present element that it reads lies in a marked word it stops at once and
the program ends. R85, R207: an OPASS that opens
its tag with k_lim = 0, every lane absent, leaves a slot in state ACCUMULATING with every accumulator of the tile zero, its
k_ext counted and no exception, and no other slot changed. R72, R76: one of INT8 operands without chains that opens its tag with
k_lim = 1, every lane present, leaves in every accumulator the product of the two elements, which stand in the images at the line of
their skew. -/
def Obligations.OpassOpensAndAdds : Prop :=
  (∀ (s : State) (c : Nat) (k k' : Core) (t : TI) (i : Nat), s.Starts c .opass k t →
      0 ≤ k.credit → k.autoMove = false → k.sameMode t = true → 
      k.enginePasses c t (fun e => s.unordered c .pass (k.colReads t k.lists [e])) t.engines = .ready k' i →
      let k1 := (k'.launch (.colPass t.engines (t.engines.map t.tagOf) t.wide (k.passBeats t)
        (t.engines.any fun e => (k.colOps t k.lists e).poison))).advance t
      (k.badAt (k.colReads t k.lists t.engines) = none → exec (.opass c) s = .next (s.setCore c k1))
      ∧ (∀ w, k.badAt (k.colReads t k.lists t.engines) = some w → exec (.opass c) s = .next (s.badPass c k.nextF (some w) k1)))
  ∧ (∀ (k k' : Core) (c : Nat) (t : TI) (raced : Nat → Bool) (e i : Nat), t.oAdd = false → t.oKLim = 0 → k.slots.length = 4 → e < 2 →
      k.enginePass c t raced e = .ready k' i →
      (k'.slot i).st = .acc ∧ (k'.slot i).eng = e ∧ (k'.slot i).tag = t.tagOf e
        ∧ (k'.slot i).mExt = t.mExt ∧ (k'.slot i).nExt = t.nExtOf e
        ∧ (k'.slot i).acc = List.replicate (t.mExt * t.nExtOf e) 0 ∧ (k'.slot i).kDone = t.kExt
        ∧ (k'.slot i).exc = 0 ∧ (k'.slot i).cap = 0
        ∧ ∀ j, j ≠ i → k'.slot j = k.slot j)
  ∧ (∀ (k k' : Core) (c : Nat) (t : TI) (raced : Nat → Bool) (e i : Nat), t.oAdd = false → t.oKLim = 1 → t.oCplx = false →
      t.fmtA = 7 → t.fmtB = 7 → t.pieceA = 0 → t.pieceB = 0 → t.oMLim = t.mExt → t.nLimOf e = t.nExtOf e → t.cnegOf e = false →
      k.lists.getD 1 none = none → k.lists.getD (2 + e) none = none → k.slots.length = 4 → e < 2 →
      k.enginePass c t raced e = .ready k' i →
      (k'.slot i).exc = 0 ∧ (k'.slot i).cap = 0 ∧ (k'.slot i).kDone = t.kExt
        ∧ ∀ m n, m < t.mExt → n < t.nExtOf e →
          let a := (k.store.rd (t.aAddr + 256 * k.skewRow (m / 2) + m)).toInt
          let b := (k.store.rd (t.bAddrOf e + 256 * k.skewCol e (n / 2) + n)).toInt
          (k'.slot i).acc[m * t.nExtOf e + n]? = some (BitVec.ofInt 32 (a * b)).toNat)

/-- R102, R110 to R112, R117, R207: a DPASS or TPASS that its rows and its page can take starts: with nothing to multiply it
only opens or keeps its row set; otherwise its products are added, its row set is left live and remembers the pass, and, for
a DPASS, one firing of the guest Ford whose guests it took is consumed. Nothing outside the core changes but copies under way
that read its rows of the sum extension, which it writes in no order with them (R190). R15, R101: it starts when no earlier pass
has multiply beats left, since the engines read one page at a time. That its products
stand from its start on is the model's choice (log entry 8), and so are the no-op of vec_max 0 whatever the batch size, and
that of n_lim 0 on either tree (log entry 33), and that the guest vectors of the firing beyond vec_max stay open (log entry
14). -/
def Obligations.PlainPassesComplete : Prop :=
  ∀ (s : State) (c : Nat) (k : Core) (t : TI) (tree : Bool),
    s.Starts c (if tree then .tpass else .dpass) k t →
    let cmd : Instr := if tree then .tpass c else .dpass c
    let base := fordBase ((k.fordEntry t.waitFord).getD (0, 0))
    let b := if t.batchDyn then (k.ford t.waitFord).batch.toNat else t.vecMax
    let cls := classOf t.fW
    0 ≤ k.credit → k.flight.any Flight.reads = false → (t.batchDyn = true → t.vecMax ≠ 0 → b ≤ t.vecMax) →
    k.rowsReady t tree = true →
    ((t.vecMax = 0 ∨ t.pNLim = 0 ∨ b = 0) →
      exec cmd s = .next (s.setCore c
        (((k.openIf t tree).setRowSet (k.passSet t tree (if t.vecMax = 0 then 0 else b) [])).advance t)))
    ∧ (let g := if tree then ([], false) else k.guestsOf t b
       let x := k.passSet t tree b g.1
       let plain : PassRec := ⟨k.nextF, t, k.lists, b,
         batchVecs b base ++ guestVecs b g.1.length (fordBase ((k.fordEntry t.guestFord).getD (0, 0))),
         (pageSlots cls t.page).map fun sl => (sl, Tab.get (0, 0) k.plain.recs sl), false⟩
       let r := { plain with changed := s.unordered c .pass (inRanges (k.plainReads plain tree)) }
       let beats := k.dwell t (b + g.1.length)
       let sum := (k.openIf t tree).runPlain c r tree x.sat x.ksum
       t.vecMax ≠ 0 → t.pNLim ≠ 0 → b ≠ 0 → k.pageReady cls t.page = true →
       k.plain.fills.any (fun f => f.touches cls t.page) = false →
       (k.pageReads r tree).any (fun y => k.touchesGuest y.1 y.2) = false →
       k.badIn (t.headerReads base ++ k.plainReads r tree) = none →
       ∃ k', exec cmd s = .next ((s.setCore c k').touch c .pass (k.addRows r tree))
        ∧ k'.plain.colAcc = sum.plain.colAcc ∧ k'.plain.treeAcc = sum.plain.treeAcc ∧ k'.plain.rowExc = sum.plain.rowExc
        ∧ k'.store = sum.store
        ∧ k'.rowSet? tree t.pRow = some { x with ksum := x.ksum + redExt tree, passes := x.passes ++ [r] }
        ∧ k'.fords = ((if g.2 then sum.consumeFord t.guestFord else sum).advance t).fords
        ∧ (g.2 = true → t.guestFord < k.fords.length → (t.consume = true → t.waitFord ≠ t.guestFord) →
            (k'.ford t.guestFord).count =
              (k.ford t.guestFord).count - BitVec.ofNat 24 (k.ford t.guestFord).target.toNat)
        ∧ k'.run.pc = (k.advance t).run.pc ∧ k'.loops = (k.advance t).loops ∧ k'.nextF = k.nextF + 1
        ∧ k'.flight = k.flight ++ [⟨k.nextF, k.run.pc,
            .plainPass t.pRow tree cls t.page beats (k.plainPoison r tree)
              (decide (0 < beats) && k.plain.pageBad cls t.page)⟩]
        ∧ k'.plain.orphans = k.plain.orphans ++ (if tree then [] else k.guestsLeft t b)
        ∧ k'.plain.plane = k.plain.plane ∧ k'.plain.recs = k.plain.recs ∧ k'.gen = k.gen ∧ k'.banks = k.banks
        ∧ k'.slots = k.slots ∧ k'.img = k.img ∧ k'.lists = k.lists)

/-- R100, R101, R201: a PFILL whose source is readable enters its page into the fill buffer, which stages it; the part at
the front that a half of the fill buffer holds, and that no started pass reads, commits: its bytes stand in the plane, the
slots that it writes have records of their source, and the half is free for the next part. With the last part of its page
the PFILL retires. Nothing else of the core's stores, rows or generator changes. -/
def Obligations.PageFillsComplete : Prop :=
  (∀ (s : State) (c : Nat) (k : Core) (t : TI) (a : Nat), s.Starts c .pfill k t →
    s.fabricAt k t.fSrc (pageBytes t.fCls) false = .ok a →
    exec (.pfill c) s = .next (((s.setCore c (Core.advance
      { k with flight := k.flight ++ [⟨k.nextF, k.run.pc, .fill⟩], nextF := k.nextF + 1 } t)).addFill c
        ⟨0, a, t.fCls, t.fPage, some k.nextF, none, none, 0, 0, false⟩).stageNext c))
  ∧ (∀ (s : State) (c : Nat) (k : Core) (f : Fill) (h : Staged) (rest : List Fill), s.Has c k → k.plain.fills = f :: rest →
    k.plain.stagedFor f = some h → h.bad = false → k.reading (pageSlots f.cls f.page) = false →
    Tab.wf (0, 0) k.plain.recs = true →
    let last := decide (fillParts f.cls ≤ f.parts + 1)
    let place := pageAddr f.cls f.page + 65536 * f.parts
    let slots := if f.cls = 3 then ((pageSlots f.cls f.page).drop (2 * f.parts)).take 2 else pageSlots f.cls f.page
    ∃ k', exec (.pageCommit c) s = .next (match last, f.pk with
        | true, some p => ((s.setCore c k').stageNext c).pageDone p
        | _, _ => (s.setCore c k').stageNext c)
      ∧ k'.plain.fills = (if last then rest else { f with parts := f.parts + 1 } :: rest)
      ∧ k'.plain.plane = (k.plain.plane.clear place (partBytes f.cls)).wrAll (shift place (h.data.getD []))
      ∧ (∀ sl, sl ∉ slots → Tab.get (0, 0) k'.plain.recs sl = Tab.get (0, 0) k.plain.recs sl)
      ∧ (∀ sl, sl ∈ slots →
          if f.cls ≠ 0 then Tab.get (0, 0) k'.plain.recs sl = (recWord f, 0)
          else if f.page % 2 = 0 then (Tab.get (0, 0) k'.plain.recs sl).1 = recWord f
          else (Tab.get (0, 0) k'.plain.recs sl).2 = recWord f)
      ∧ (∀ g, k'.plain.halfA = some g ∨ k'.plain.halfB = some g → g.reads ≠ h.reads)
      ∧ (∀ g, k'.flight? g = if last = true ∧ f.flight = some g then none else k.flight? g)
      ∧ k'.store = k.store ∧ k'.gen = k.gen ∧ k'.plain.colAcc = k.plain.colAcc ∧ k'.plain.treeAcc = k.plain.treeAcc
      ∧ k'.plain.sets = k.plain.sets)
  ∧ (∀ f : Fill, f.src % 64 = 0 → f.src < 2 ^ 41 → f.cls < 4 →
    recValid (recWord f) = true ∧ recSrc (recWord f) = f.src ∧ recClass (recWord f) = f.cls
      ∧ recFill (recWord f) = f.pk.isSome ∧ recImage (recWord f) = (f.image.map (·.toNat)).getD 0)

/-- R85, R112, R117, R148, R202, R203, R336: a BDRAIN of accumulating slots that nothing still adds into or moves, or of a
live row set, whose destination and status addresses are allowed and whose chain reads no guest Ford and no marked word,
starts: the slots, or the rows, are DRAINING, the drain is recorded with its ordinal, its guests and the bytes of its
destination range, and the next drain gets the next ordinal. Only vectors of its present rows and columns count as read
(R156), with its rows of the sum extension (R104, R190). Nothing outside the core changes. -/
def Obligations.BdrainStarts : Prop :=
  ∀ (s : State) (c : Nat) (k : Core) (t : TI) (slots : List Nat) (set : Option RowSet) (a b : Nat),
    s.Starts c .bdrain k t → k.slots.length = 4 →
    let sh := k.drainShape t slots set
    let list := listWords k.img (k.lists.getD 0 none)
    (if t.dKind = 0 then s.fabricAt k t.dDst (max (t.spanOf sh) 1) true else .ok t.dDst) = .ok a →
    (if t.stKind = 0 then s.fabricAt k t.stAddr 8 true else .ok t.stAddr) = .ok b →
    (listSpans list sh.mMax sh.nMax).any (fun r => k.touchesGuest r.1 r.2) = false →
    k.badIn ((stagesOf list).flatMap fun g =>
      if g.code = cREDROWS ∧ 4 ≤ g.sel then (k.drainRows set sh).map fun i => (g.addr + i * g.fmt.bytes, g.fmt.bytes)
      else if g.code = cREDCOLS ∧ 4 ≤ g.sel then [(g.addr, sh.nLim * g.fmt.bytes)] else []) = none →
    (isCol c = true → set = none ∧ (t.engines.map fun e => k.resident e (t.drainTag e)) = slots.map some
      ∧ ∀ i ∈ slots, i < 4 ∧ (k.slot i).st = .acc ∧ k.passIn i = false ∧ k.moving i = false) →
    (isCol c = false → slots = [] ∧ ∃ x, set = some x ∧ k.rowSet? t.dTree t.dRow = some x ∧ x.draining = false
      ∧ x.dirty = false ∧ k.passInto t.dTree t.dRow = false) →
    ∃ k', exec (.bdrain c) s = .next (s.setCore c k')
      ∧ (∀ i, k'.slot i = if i ∈ slots then { k.slot i with st := .draining } else k.slot i)
      ∧ (∀ x, set = some x → k'.rowSet? x.tree x.row = some { x with draining := true })
      ∧ k'.run.drainSeq = k.run.drainSeq + 1 ∧ k'.run.pc = (k.advance t).run.pc
      ∧ k'.store = k.store ∧ k'.gen = k.gen ∧ k'.banks = k.banks
      ∧ k'.plain.colAcc = k.plain.colAcc ∧ k'.plain.treeAcc = k.plain.treeAcc
      ∧ ∃ d, k'.flight = k.flight ++ [⟨k.nextF, k.run.pc, .drain d⟩] ∧ d.ph = .taking
          ∧ d.toTake = (if set.isSome then [0] else slots) ∧ d.seq = k.run.drainSeq % 65536
          ∧ d.list = list ∧ d.span = t.spanOf sh ∧ d.guests = (set.map (·.guests)).getD []
          ∧ (d.ti.dDst = a % 2 ^ 48 ∧ d.ti.stAddr = b % 2 ^ 48)
          ∧ d.reads = drainReads list (k.drainRows set sh) sh
              ++ k.sumRows t.dTree t.dRow (if set.isSome then sh.nLim else 0) (k.drainRows set sh)
          ∧ d.writes = t.drainWrites c list sh
          ∧ d.olds = Drain.readOlds { d with olds := [] } k.store sh.mMax sh.nMax

/-- R85 to R89, R204: a SPILL of an accumulating slot, and a REFILL of a tag with a sound record into a free slot, start; an
automatic spill and an automatic refill do the same for the instruction at pc; a finished spill leaves its record in the
store, whose words have no mark, and its slot EMPTY, and a finished refill retires. R190: a refill that reads bytes owed by
another leaves a tile of its extents and count whose accumulators and exception state are free (the model's choice, log entry
8). -/
def Obligations.SpillsAndRefillsComplete : Prop :=
  ∀ (s : State) (c : Nat) (k : Core),
    (∀ t i, s.Starts c .spill k t → k.resident t.sEng t.sTag = some i → (k.slot i).st = .acc → k.passIn i = false →
      k.moving i = false →
      exec (.spill c) s = .next (s.setCore c ((k.launch (.spill t.sEng i t.recOff false)).advance t)))
    ∧ (∀ t i x, s.Starts c .refill k t → k.slotForNew t.sEng t.sTag = some i → k.moving i = false →
      k.badIn [(t.recOff, recBytes)] = none → readRecord k.store t.recOff t.sEng t.sTag k.nextF = some x →
      exec (.refill c) s = .next (s.setCore c
        (((k.setSlot i { x with src := some t.recOff, stale := s.recordRaced c t.recOff }).launch (.refill t.sEng i t.recOff t.sTag false)).advance t)))
    ∧ (∀ l o e i, s.Has c k → k.autoNames = some (l, o) → k.short (k.absent l) = some e → k.victimFor e l = some i →
      k.passIn i = false → k.moving i = false →
      exec (.autoSpill c) s = .next (s.setCore c
        (k.launch (.spill (k.slot i).eng i (k.autoRec (k.slot i).eng (k.slot i).tag) true))))
    ∧ (∀ l e t i x, s.Has c k → k.autoNames = some (l, false) →
      (k.absent l).findSome? (fun p => (k.emptySlot p.1).map fun j => (p, j)) = some ((e, t), i) → k.moving i = false →
      k.badIn [(k.autoRec e t, recBytes)] = none →
      readRecord k.store (k.autoRec e t) e t k.nextF = some x →
      exec (.autoRefill c) s = .next (s.setCore c
        ((k.setSlot i { x with src := some (k.autoRec e t), stale := s.recordRaced c (k.autoRec e t) }).launch
          (.refill e i (k.autoRec e t) t true))))
    ∧ (∀ f idx e i r au, s.Has c k → i < k.slots.length → k.flight? f = some ⟨f, idx, .spill e i r au⟩ →
      ∃ (u : State) (k' : Core), exec (.spillComplete c f) s = .next u ∧ u.core? c = some k'
        ∧ k'.store = writeRecord k.store r (k.slot i) ∧ k'.slot i = .reset
        ∧ (∀ j, j ≠ i → { k'.slot j with passes := (k.slot j).passes, stale := (k.slot j).stale } = k.slot j)
        ∧ k'.bad = k.bad.filter (fun w => decide (8 * w + 8 ≤ r) || decide (r + recBytes ≤ 8 * w))
        ∧ k'.flight? f = none ∧ (∀ g, g ≠ f → k'.flight? g = (k.flight? g).map (Flight.mark [(r, recBytes)]))
        ∧ k'.run = k.run ∧ k'.gen = k.gen ∧ u.mem = s.mem ∧ u.aon = s.aon ∧ ∀ d, d ≠ c → u.core? d = s.core? d)
    ∧ (∀ f idx e i r g au, s.Has c k → k.flight? f = some ⟨f, idx, .refill e i r g au⟩ → k.isStopped f = false →
      i < k.slots.length →
      ∃ (u : State) (k' : Core), exec (.refillComplete c f) s = .next u ∧ u.core? c = some k'
        ∧ k'.flight? f = none ∧ (∀ g, g ≠ f → k'.flight? g = k.flight? g) ∧ k'.store = k.store
        ∧ (∀ j, j ≠ i ∨ (k.slot i).stale = false → k'.slot j = k.slot j)
        ∧ { k'.slot i with acc := (k.slot i).acc, exc := (k.slot i).exc, cap := (k.slot i).cap } = k.slot i
        ∧ (k'.slot i).acc.length = (k.slot i).acc.length
        ∧ k'.run = k.run ∧ k'.gen = k.gen ∧ u.mem = s.mem ∧ u.aon = s.aon ∧ ∀ d, d ≠ c → u.core? d = s.core? d)

/-- R48, R87: a spill record holds the raw slot. Reading back the record that a slot in legal form wrote gives the slot's
extents, kind, overflow code, count, exception words and accumulators, bit for bit, whatever stood in the store before. -/
def Obligations.SpillRecordRoundTrips : Prop :=
  ∀ (m : Mem) (a eng used : Nat) (x : Slot), m.wf = true → x.st = .acc →
    (let top := if x.kind.isWide then 128 else 256
     0 < x.mExt ∧ x.mExt ≤ top ∧ 0 < x.nExt ∧ x.nExt ≤ top) →
    x.acc.length = x.mExt * x.nExt → (∀ v ∈ x.acc, v < 2 ^ (if x.kind.isWide then 128 else 32)) →
    x.tag < 16 → x.kDone < 2 ^ 32 →
    readRecord (writeRecord m a x) a eng x.tag used = some { Slot.reset with
      st := .acc, eng := eng, tag := x.tag, mExt := x.mExt, nExt := x.nExt, kind := x.kind, sat := x.sat
      kDone := x.kDone, exc := x.exc, cap := x.cap, acc := x.acc, used := used
      org := some (x.kDone, x.exc, x.cap, x.acc) }

/-- R77, R86, R111, R119, R165, R377: a pass that has not been stopped retires: it leaves the list of started instructions, and
a POISON_CHECK that fired in it is forwarded to its tenant's step-poison; without one nothing outside the core changes. With one, at
a core that a follower serves, it awaits the lead's update (R188). A stopped pass, one that has read bad parity in the page, and a
Col pass while an automatic spill or refill runs, does not retire. R190: a pass over store bytes written in no order
with it leaves free values in its accumulators and exception states, and nowhere else, and its poison is free where its list
checks them (the model's choice, log entry 8). -/
def Obligations.PassesRetire : Prop :=
  ∀ (s : State) (c f idx : Nat) (k : Core), s.Has c k →
    let waits := decide (s.role (s.servedBy c) = .follower)
    let merged := fun (i : Nat) => (if waits then k.setFlight ⟨f, i, .merging⟩ else k.retire f).endReplay f
    (∀ es ts w b p, k.flight? f = some ⟨f, idx, .colPass es ts w b p⟩ →
      ((k.slotRecs f).any (·.changed) = false → exec (.passRetire c f) s = .next
        (if k.isStopped f = true ∨ k.autoMove = true then s
         else if p then (s.setCore c (merged idx)).mergeFrom (s.servedBy c) ⟨k.run.tenant, 0, 0, 0, true⟩
         else s.setCore c (k.retirePass f)))
      ∧ ((k.slotRecs f).any (·.changed) = true → k.isStopped f = false → k.autoMove = false →
        ∃ (u : State) (k' : Core), exec (.passRetire c f) s = .next u ∧ u.core? c = some k'
          ∧ { k' with slots := k.slots } = (if k.poisonOf (k.slotRecs f) p s.free then merged idx else k.retirePass f)
          ∧ (∀ j, { k'.slot j with acc := (k.slot j).acc, exc := (k.slot j).exc, cap := (k.slot j).cap } = k.slot j)
          ∧ (∀ j, (∀ r ∈ (k.slot j).passes, r.id = f → r.changed = false) → k'.slot j = k.slot j)
          ∧ u.mem = s.mem ∧ u.aon = s.aon ∧ u.free = s.free + 4 * slotFree ∧ ∀ d, d ≠ c → u.core? d = s.core? d)
      ∧ ((k.slotRecs f).any (·.changed) = true → k.isStopped f = true ∨ k.autoMove = true →
        exec (.passRetire c f) s = .next s))
    ∧ (∀ r tr cls pg b p bad, k.flight? f = some ⟨f, idx, .plainPass r tr cls pg b p bad⟩ →
      ((k.rowRecs f).any (·.2.changed) = false → exec (.plainPassRetire c f) s = .next
        (if k.isStopped f = true ∨ bad = true then s
         else if p then (s.setCore c (merged idx)).mergeFrom (s.servedBy c) ⟨k.run.tenant, 0, 0, 0, true⟩
         else s.setCore c (k.retirePass f)))
      ∧ ((k.rowRecs f).any (·.2.changed) = true → k.isStopped f = false → bad = false →
        ∃ (u : State) (k' : Core), exec (.plainPassRetire c f) s = .next u ∧ u.core? c = some k'
          ∧ { k' with store := k.store, plain := k.plain } =
              (if k.poisonOf ((k.rowRecs f).map (·.2)) p s.free then merged idx else k.retirePass f)
          ∧ { k'.plain with colAcc := k.plain.colAcc, treeAcc := k.plain.treeAcc, rowExc := k.plain.rowExc } = k.plain
          ∧ u.mem = s.mem ∧ u.aon = s.aon ∧ u.free = s.free + slotFree ∧ ∀ d, d ≠ c → u.core? d = s.core? d)
      ∧ ((k.rowRecs f).any (·.2.changed) = true → k.isStopped f = true ∨ bad = true →
        exec (.plainPassRetire c f) s = .next s))
    ∧ (waits = true → k.flight? f ≠ none → (merged idx).flight? f = some ⟨f, idx, .merging⟩)
    ∧ (k.retirePass f).flight? f = none ∧ (∀ g, g ≠ f → (k.retirePass f).flight? g = k.flight? g)
    ∧ k.retirePass f = { k with flight := (k.retirePass f).flight, rep := (k.retirePass f).rep }

/-- R189, R198, R205, R207, R218: an XFER that moves bytes and whose ranges are allowed starts a transfer and goes on; one
of no rows or no bytes is a no-op, but for one into a Ford, which sends an empty transfer that no instruction waits for. A
ninth transfer waits for the oldest of eight (the model's reading, log entry 16). R292: while a step of its tenant
is open, an instruction that writes an image-relative alias of the live half is not permitted; a read of it whose range
translates, lies in a window of the tenant and on no withdrawn port is granted. -/
def Obligations.XferStartsWithinItsWindows : Prop :=
  (∀ (s : State) (c : Nat) (k : Core) (t : TI), s.Starts c .xfer k t →
      let ford : Loc := .ford (fld t.w2 44 40) (fld t.w2 37 32) (fld t.w2 31 0)
      let void := s.setCore c { k.advance t with nextF := k.nextF + 1 }
      (∀ a b, t.rows ≠ 0 → t.rowBytes ≠ 0 → k.dmaFull = false →
        (t.xSrcKind = 0 → ∃ x, s.fabricAt k t.xSrc ((t.rows - 1) * t.xSrcPitch + t.rowBytes) false = .ok x ∧ a = .fabric x) →
        (t.xSrcKind ≠ 0 → k.touchesGuest (t.xSrc % 2 ^ 32) ((t.rows - 1) * t.xSrcPitch + t.rowBytes) = false
          ∧ a = .store c (t.xSrc % 2 ^ 32)) →
        (t.xDstKind = 0 → ∃ x, s.fabricAt k t.xDst ((t.rows - 1) * t.xDstPitch + t.rowBytes) true = .ok x ∧ b = .fabric x) →
        (t.xDstKind = 1 → b = .store c (t.xDst % 2 ^ 32)) → (2 ≤ t.xDstKind → b = ford) →
        s.skewPast b (t.copy a) = false →
        exec (.xfer c) s = .next ((s.setCore c
          { (k.launch (.xfer s.blk.nextX k.nextD)).advance t with nextD := k.nextD + 1 }).startXfer k.run.tenant
          (.instr c k.nextF k.run.pc) b (t.copy a)))
      ∧ ((t.rows = 0 ∨ t.rowBytes = 0) → t.xDstKind ≠ 2 → exec (.xfer c) s = .next void)
      ∧ ((t.rows = 0 ∨ t.rowBytes = 0) → t.xDstKind = 2 →
        exec (.xfer c) s = .next (void.startXfer k.run.tenant (.quiet c k.run.runs.toNat k.run.pc) ford (t.copy (.store c 0)))))
  ∧ (∀ (s : State) (k : Core) (a len : Nat), aliasLive a = true → (s.auth.ten k.run.tenant).stepOpen = true →
      s.fabricAt k a len true = .error .notPermitted
      ∧ (∀ b, s.translate k.run.tenant k.run.live k.run.chunk a len = some b → s.inWindow k.run.tenant b len = true →
          s.lostRange b len = false → s.fabricAt k a len false = .ok b))

/-- R102, R196, R197, R216, R224, R225: a transfer whose bytes are at hand, whose turn it is among those of its sender, and
that its receiving core accepts, lands: its bytes stand in that core's store, a Ford counts one arrival and fixes its batch
size if it fires by it, a guest Ford remembers whose bytes it holds (R117), and the transfer is gone; nothing else of the
store changes, and no other core than the receiver and the sender. Where the bytes would replace a marked word in part, those
before it stand, the word is counted, and the sender ends with FAULT_FENCED. That the bytes of a transfer into a store or a
Ford are written in one step is the model's choice (log entry 8). -/
def Obligations.TransfersLand : Prop :=
  ∀ (s : State) (x : Transfer) (c : Nat) (k : Core), s.xfer? x.id = some x → s.core? c = some k →
    s.ready x = true → x.refusal s = none → s.MoveOwned x →
    let frame := fun (u : State) =>
      u.mem = s.mem ∧ u.aon = s.aon
        ∧ ∀ d, d ≠ c → (∀ f i, x.owner ≠ .instr d f i ∧ x.owner ≠ .quiet d f i) → u.core? d = s.core? d
    (∀ off, x.dst = .store c off →
      (k.maskedBad (shift off (x.bytes s)) = none →
        ∃ (u : State) (k' : Core), exec (.transferLanding x.id) s = .next u ∧ u.core? c = some k' ∧ u.xfer? x.id = none
          ∧ k'.store = k.store.wrAll (shift off (x.bytes s)) ∧ k'.fords = k.fords ∧ frame u)
      ∧ (∀ n w, k.maskedBad (shift off (x.bytes s)) = some (n, w) →
        ∃ (u : State) (k' : Core), exec (.transferLanding x.id) s = .next u ∧ u.core? c = some k' ∧ u.xfer? x.id = none
          ∧ k'.store = k.store.wrAll ((shift off (x.bytes s)).take n) ∧ k'.fords = k.fords ∧ w ∈ k'.bad
          ∧ k'.eccUnc = bump16 k.eccUnc ∧ frame u
          ∧ ∀ d f idx j, x.owner = .instr d f idx → s.core? d = some j → j.run.state = .running →
              (u.core? d).map (·.run.ending) = some (some (j.run.ending.getD (BitVec.ofNat 8 Status.faultFenced.code, idx)))))
    ∧ (∀ n off w, x.dst = .ford c n off → k.fordEntry n = some w → fordReduce w = false → n < k.fords.length →
      k.maskedBad (shift (fordBase w + off) (x.bytes s)) = none →
      ∃ (u : State) (k' : Core), exec (.fordArrival x.id) s = .next u ∧ u.core? c = some k' ∧ u.xfer? x.id = none
        ∧ k'.store = k.store.wrAll (shift (fordBase w + off) (x.bytes s))
        ∧ (k'.ford n).count = (k.ford n).count + 1 ∧ (k'.ford n).target = (k.ford n).target
        ∧ (fordGuest w = true → ∀ b ∈ x.bytes s, (k'.ford n).sender (off + b.1) = x.tenant)
        ∧ (fordGuest w = false → (k'.ford n).guests = (k.ford n).guests)
        ∧ (k'.ford n).batch = (if (k'.ford n).fired = true ∧ (k.ford n).fired = false then
            BitVec.ofNat 7 (fld (k'.store.word (fordBase w)) 6 0) else (k.ford n).batch)
        ∧ (∀ m, m ≠ n → k'.ford m = k.ford m) ∧ frame u)

/-- R226, R227: a DX16 drain that a reduce Ford accepts is applied to it: as the first arrival of its round it is laid down
verbatim with a status line that records its layout, later ones are added block by block; the Ford counts one arrival. R225,
R226: a delivery that its receiving core refuses in its turn writes nothing anywhere: the transfer is gone, and the program
that sent it ends with the status of the refusal at the index of the instruction that sent it, unless an ending is set
already; so does the run whose drain sent a guest return, or whose zero-length XFER sent its signal, while it lasts (that
nothing ends once it is over is the model's choice, log entry 16). -/
def Obligations.DeliveriesReduceOrAreRefused : Prop :=
  (∀ (s : State) (x : Transfer) (c n off nc m pitch : Nat) (k : Core) (w : Word × Word) (bs : List (Nat × Byte)) (dx : Bool)
      (es : List (Nat × Nat)),
      s.xfer? x.id = some x → s.core? c = some k → x.dst = .ford c n off → x.load = .data bs dx nc m pitch es →
      k.fordEntry n = some w → fordReduce w = true → n < k.fords.length → s.ready x = true → x.refusal s = none →
      reduceBad k n (fordBase w) off bs nc m pitch = none → s.MoveOwned x →
      ∃ (u : State) (k' : Core), exec (.reduceOnArrival x.id) s = .next u ∧ u.core? c = some k' ∧ u.xfer? x.id = none
        ∧ k'.store = (reduceApply k n (fordBase w) off bs nc m pitch es).store
        ∧ ((k.ford n).first = true → k'.store =
            k.store.wrAll (shift (fordBase w + off) bs ++ wordBytes (fordBase w) (reduceWords off nc m pitch)))
        ∧ (k'.ford n).count = (k.ford n).count + 1 ∧ (k'.ford n).target = (k.ford n).target
        ∧ (fordGuest w = true → ∀ b ∈ bs, (k'.ford n).sender (off + b.1) = x.tenant)
        ∧ (∀ j, j ≠ n → k'.ford j = k.ford j) ∧ u.mem = s.mem ∧ u.aon = s.aon)
  ∧ (∀ (s : State) (x : Transfer) (st : Status) (c idx : Nat) (k : Core), s.xfer? x.id = some x → x.refusal s = some st →
      s.ready x = true → s.core? c = some k → k.run.state = .running →
      ((∃ f, x.owner = .instr c f idx) ∨ x.owner = .quiet c k.run.runs.toNat idx) →
      ∃ (u : State) (k' : Core), exec (.deliveryRefusal x.id) s = .next u ∧ u.core? c = some k' ∧ u.xfer? x.id = none
        ∧ k'.run.ending = some (k.run.ending.getD (BitVec.ofNat 8 st.code, idx))
        ∧ (∀ f, x.owner = .instr c f idx → k'.flight? f = none)
        ∧ k'.store = k.store ∧ k'.fords = k.fords ∧ (∀ d, d ≠ c → u.core? d = s.core? d) ∧ u.mem = s.mem ∧ u.aon = s.aon)

/-! ### Drains -/

/-- R85, R112, R177, R216: the oldest drain that takes tiles, where neither a read nor a write of the tile's crossing meets a
marked word, takes its next one: that slot is EMPTY, or the rows are free; with the last one its chain is crossed, and the
drain is held, or computed and delivered or sent. Other slots keep their tiles, and nothing outside the core changes but that
it starts the drain's own transfers. That a tile makes one crossing of its drain's
chain in one step, and that the output conversion follows in the step of the last crossing, is the model's choice (log entry
8). -/
def Obligations.DrainsTakeTheirTiles : Prop :=
  ∀ (s : State) (c f idx i : Nat) (k : Core) (d : Drain) (rest : List Nat), s.Has c k →
    k.flight? f = some ⟨f, idx, .drain d⟩ → d.ph = .taking → d.stuck = false →
    (k.flight.find? Flight.taking).map (·.id) = some f → d.free k = true → d.toTake = i :: rest → k.slots.length = 4 → i < 4 →
    (let r := k.takeTile c d i
     let e := s.readyDrain c { d with
       reads := d.reads.filter fun y => !((k.drainRowReads d).contains y)
       toTake := rest, tiles := d.tiles ++ [r.2.1], out := { d.out with guestLog := r.2.2.foldl mergeLog d.out.guestLog } }
     let a := Drain.crossPlace c 0 ((e.plan r.1).holdPos 0) (fun q => (e.tiles.getD q default).accElem) (r.1, e, none)
       d.tiles.length
     stopAt ((e.badElem k 0 ((e.plan k).holdPos 0) d.tiles.length (k.elemCells c e)).map
       fun y => (e.elemsBefore d.tiles.length + y.1, y.2)) a.2.2 = none) →
    ∃ (v : State) (k' : Core) (d' : Drain) (l : List (Nat × Owner × Loc × Payload)),
      exec (.slotDrainComplete c f) s = .next (v.sendAll l) ∧ v.core? c = some k'
      ∧ k'.flight? f = some ⟨f, idx, .drain d'⟩ ∧ d'.toTake = rest ∧ d'.tiles.length = d.tiles.length + 1
      ∧ (rest = [] ↔ d'.ph ≠ .taking)
      ∧ (d'.sent = false → d.sent = false → l = [])
      ∧ (∀ x ∈ l, x.2.1 = .instr c f idx ∨ ∃ r, x.2.1 = .quiet c r idx)
      ∧ (isCol c = true → k'.slot i = .reset
        ∧ ∀ j, j ≠ i → { k'.slot j with passes := (k.slot j).passes, stale := (k.slot j).stale } = k.slot j)
      ∧ (isCol c = false → k'.rowSet? d.ti.dTree d.ti.dRow = none)
      ∧ v.mem = s.mem ∧ v.aon = s.aon ∧ v.hp = s.hp ∧ (∀ e, e ≠ c → v.core? e = s.core? e)

/-- R174, R177: when every tile of a bank's group has been counted, the derivation marks the group derived and touches
nothing else than the bank's rows; the held tiles of the first drain on a bank whose group is derived, where their crossing
meets no marked word, leave the area: the drain is delivered or sent, or its tiles are held before a later ROWAPPLY. -/
def Obligations.DeferredDrainsGoOn : Prop :=
  ∀ (s : State) (c : Nat) (k : Core), s.Has c k →
    (∀ b x, k.derivable b = true → b < k.groups.length → (k.flight.filterMap (Flight.heldOn b)).getLast? = some x →
      ∃ k', exec (.derivation c b) s = .next (s.setCore c k')
        ∧ k'.grp b = { k.grp b with derived := true } ∧ (∀ g, g ≠ b → k'.grp g = k.grp g)
        ∧ k'.banks = (List.range (x.1.tiles.headD default).m).foldl
            (fun t i => setBankRow t b i ((bankRow t b i).derive x.2.sel x.2.c0)) k.banks
        ∧ k'.flight = k.flight ∧ k'.store = k.store ∧ k'.slots = k.slots ∧ k'.gen = k.gen)
    ∧ (∀ f idx d, k.flight? f = some ⟨f, idx, .drain d⟩ → d.holds = true → d.stuck = false →
      (k.grp ((d.plan k).bankAt d.pos)).derived = true →
      (k.flight.find? fun y => (Flight.heldOn ((d.plan k).bankAt d.pos) y).isSome).map (·.id) = some f →
      (let hi := (d.plan k).holdPos (d.pos + 1)
       let e := s.readyDrain c d
       let a := e.heldTiles.foldl (Drain.crossPlace c e.pos hi
         fun q => (e.tiles.getD q default).heldElem k.store (areaBase (isCol c)) (e.ords.getD q 0)) (k, e, none)
       stopAt (e.heldTiles.findSome? fun q =>
         let t := e.tiles.getD q default
         (e.badElem k e.pos hi q fun i j => [(areaBase (isCol c) + 4 * (e.ords.getD q 0 * t.m * t.n + i * t.n + j), 4)]).map
           fun y => (e.elemsBefore q + y.1, y.2)) a.2.2 = none) →
      ∃ (v : State) (k' : Core) (d' : Drain) (l : List (Nat × Owner × Loc × Payload)),
        exec (.secondCrossing c f) s = .next ((v.sendAll l).modCore c Core.freeArea) ∧ v.core? c = some k'
        ∧ k'.flight? f = some ⟨f, idx, .drain d'⟩ ∧ d'.toTake = d.toTake ∧ (d'.holds = true → d.pos < d'.pos)
        ∧ (d'.sent = false → d.sent = false → l = [])
        ∧ (∀ j, { k'.slot j with passes := (k.slot j).passes, stale := (k.slot j).stale } = k.slot j)
        ∧ v.mem = s.mem ∧ v.aon = s.aon ∧ v.hp = s.hp ∧ (∀ e, e ≠ c → v.core? e = s.core? e))

/-- R144, R146, R147, R171: a drain whose elements stand at their destination writes the vectors of its reductions and its
status word to their places, the run remembers what it reported, and, at a core that the lead serves, its flags, first
capture and poison are merged once into its tenant's sticky registers. R188: it retires then, but at a core that a follower serves
it awaits the merge at the lead. R146, R276: a merge that a follower forwarded, first in line for the lead, is applied there,
unless the lead deems the follower silent and it is not OFF (R283): flags ORed, invalid drains counted with saturation, the first
capture kept, poison set; no other tenant's record and no binding changes; and when no merge of a core's tenant is on its way any
more, its instructions that awaited one retire. -/
def Obligations.DrainStatusIsMerged : Prop :=
  (∀ (s : State) (c f idx : Nat) (k : Core) (d : Drain), s.Has c k → k.flight? f = some ⟨f, idx, .drain d⟩ →
      d.ph = .delivered → d.stuck = false → d.out.guestLog = [] →
      let bs := numBytes 0 8 d.statusWord.toNat
      let own := d.out.vecs ++ if d.ti.stKind = 1 then shift (d.ti.stAddr % 2 ^ 32) bs else []
      k.maskedBad own = none →
      ∃ (u : State) (k' : Core), exec (.drainStatusWrite c f) s = .next u ∧ u.core? c = some k'
        ∧ k'.flight? f = (if s.role (s.servedBy c) = .follower then some ⟨f, idx, .merging⟩ else none)
        ∧ k'.run.exc = (k.run.exc || decide (d.allFlags % 4 ≠ 0)) ∧ k'.run.fault = (k.run.fault || d.replayed)
        ∧ k'.store = k.store.wrAll own
        ∧ u.mem = (if d.ti.stKind = 1 then s.mem else s.mem.wrAll (shift d.ti.stAddr bs))
        ∧ (s.role (s.servedBy c) = .lead → k.run.tenant < s.auth.tens.length →
            u.auth.ten k.run.tenant = (s.auth.ten k.run.tenant).merge (d.entry c k.run.tenant)
            ∧ ∀ t, t ≠ k.run.tenant → u.auth.ten t = s.auth.ten t))
  ∧ (∀ (s : State) (h : Half) (e : LogEntry) (rest : List (Half × Msg)), s.hasCp h = true → s.role h = .lead →
      s.role h.other ≠ .lead → s.blk.saddle = (h, .merge e) :: rest → e.tenant < (s.cp h).ts.tens.length →
      ((s.cp h).silent && s.cpUp h.other) = false →
      ∃ u, exec (.forwardedMerge h) s = .next u
        ∧ (u.cp h).ts.ten e.tenant = ((s.cp h).ts.ten e.tenant).merge e
        ∧ (∀ t, t ≠ e.tenant → (u.cp h).ts.ten t = (s.cp h).ts.ten t)
        ∧ (u.cp h).ts.bind = (s.cp h).ts.bind ∧ (u.cp h).ts.gen = (s.cp h).ts.gen + 1
        ∧ u.blk.saddle = (if s.follower? then rest ++ [(h.other, .mirror)] else rest)
        ∧ u.blk.cores = s.blk.cores.map (fun k =>
            if u.merged k.run.tenant = true then { k with flight := k.flight.filter fun f => decide (f.work ≠ .merging) } else k)
        ∧ u.mem = s.mem ∧ u.aon = s.aon ∧ u.hp = s.hp)

/-! ### Packets and commands -/

/-- R208, R241, R242, R243, R245, R311: a packet that completes is gone, and the cores that it held go on. With a reply that
its quiet flag suppresses, or SEAL's at a boot port without a ring, its credit returns at once and bit 1 of its port's
HP_IRQ_STATUS is set; otherwise its reply of two words waits at its port, with the status, sequence and tenant in word 0 and
the data in word 1 where the status carries any. The cores of a completed RELEASE start to go OFF. Memory and every other
packet stand. -/
def Obligations.CompletionRepliesOrReturnsTheCredit : Prop :=
  ∀ (s : State) (p : Packet) (st : Status) (dkind detail : Nat) (data : Word) (h : HostPort),
    s.hp[p.port]? = some h → dkind < 16 → detail < 2 ^ 32 →
    let u := s.complete p st dkind detail data
    u.pkt? p.id = none ∧ (∀ i, i ≠ p.id → u.pkt? i = s.pkt? i)
    ∧ s.GoOn u p.id (p.todo ++ p.acted) ∧ u.mem = s.mem ∧ u.blk.xfers = s.blk.xfers
    ∧ u.aon = { s.aon with doms := u.aon.doms }
    ∧ (∀ d, u.dom d = if p.opcode = 0x11 ∧ st = .ok ∧ d ∈ p.acted ∧ s.domOn d = true then
        .changing .off ((s.now + s.ticks 1) % 2 ^ 56) else s.dom d)
    ∧ (∀ q, q ≠ p.port → u.hp[q]? = s.hp[q]?)
    ∧ ((p.quiet = true ∧ st = .ok) ∨ s.sealSilent p = true →
        u.hp[p.port]? = some { h with credits := h.credits + 1, irq := h.irq ||| 2 } ∧ u.blk.replies = s.blk.replies)
    ∧ ((p.quiet = false ∨ st ≠ .ok) → s.sealSilent p = false → u.hp = s.hp ∧
        ∃ w0 w1, u.blk.replies = s.blk.replies ++ [⟨p.port, w0, w1, 0⟩]
          ∧ fld w0 63 56 = st.code ∧ fld w0 55 40 = p.sequence ∧ fld w0 39 36 = p.tenant ∧ fld w0 35 32 = dkind
          ∧ fld w0 31 0 = detail
          ∧ w1 = if st = .ok ∨ st = .okExceptions ∨ st = .faultRetried then data else 0)

/-- R246, R252: NOP and FENCE complete with OK and no data, QUERY_CAPS with the capability word that its header asks for;
nothing but the packet, its reply and its credit changes. R248: a command row on a packet that fails a check, the checks of
dispatch first, completes it with the status of the first check that fails and has no other effect, whatever its opcode. R275: a
packet that acts on cores which have passed to the other command processor sends its order there first, and is checked after
that. -/
def Obligations.PacketsCompleteOrFail : Prop :=
  (∀ (s : State) (p : Packet),
      (s.Executes p 0x01 → exec (.nop p.id) s = .next (s.complete (s.started p) .ok 0 0 0))
      ∧ (s.Executes p 0x02 → exec (.fence p.id) s = .next (s.complete (s.started p) .ok 0 0 0))
      ∧ (s.Executes p 0x50 → exec (.queryCaps p.id) s =
          .next (s.complete (s.started p) .ok 0 0 (if bitOf p.hdr 0 then s.aon.caps1 else s.aon.caps0))))
  ∧ (∀ (s : State) (p : Packet), s.pkt? p.id = some p → s.cpRuns p.half = true → p.st = .ready → s.holds p = false →
      s.needsOrder p = true →
      let sent : Host.Outcome State Fault Refusal := .next ((s.setPkt { p with ordered := true }).post p.half.other (.order p.id))
      (p.opcode = 0x20 → exec (.loadProgram p.id) s = sent) ∧ (p.opcode = 0x21 → exec (.run p.id) s = sent)
      ∧ (p.opcode = 0x31 → exec (.fillPages p.id) s = sent) ∧ (p.opcode = 0x60 → exec (.setSeed p.id) s = sent)
      ∧ (p.opcode = 0x7F → exec (.resetTenant p.id) s = sent))
  ∧ (∀ (s : State) (p : Packet) (b : Bad), s.pkt? p.id = some p → s.cpRuns p.half = true → p.st = .ready → s.holds p = false →
      s.needsOrder p = false → (s.judge p = some b ∨ (s.judge p = none ∧ s.fencedBad p = some b)) →
      let done : Host.Outcome State Fault Refusal := .next (s.complete p b.status b.dkind b.detail 0)
      (p.opcode = 0x01 → exec (.nop p.id) s = done) ∧ (p.opcode = 0x02 → exec (.fence p.id) s = done)
      ∧ (p.opcode = 0x10 → exec (.bind p.id) s = done) ∧ (p.opcode = 0x11 → exec (.release p.id) s = done)
      ∧ (p.opcode = 0x12 → exec (.saveContext p.id) s = done) ∧ (p.opcode = 0x13 → exec (.restoreContext p.id) s = done)
      ∧ (p.opcode = 0x20 → exec (.loadProgram p.id) s = done) ∧ (p.opcode = 0x21 → exec (.run p.id) s = done)
      ∧ (p.opcode = 0x22 → exec (.selectBucket p.id) s = done) ∧ (p.opcode = 0x30 → exec (.move p.id) s = done)
      ∧ (p.opcode = 0x31 → exec (.fillPages p.id) s = done) ∧ (p.opcode = 0x40 → exec (.stepBegin p.id) s = done)
      ∧ (p.opcode = 0x41 → exec (.stepCommit p.id) s = done) ∧ (p.opcode = 0x42 → exec (.phaseMark p.id) s = done)
      ∧ (p.opcode = 0x50 → exec (.queryCaps p.id) s = done) ∧ (p.opcode = 0x51 → exec (.readTimers p.id) s = done)
      ∧ (p.opcode = 0x52 → exec (.readHealth p.id) s = done) ∧ (p.opcode = 0x53 → exec (.marginSurvey p.id) s = done)
      ∧ (p.opcode = 0x60 → exec (.setSeed p.id) s = done) ∧ (p.opcode = 0x70 → exec (.writePolicy p.id) s = done)
      ∧ (p.opcode = 0x71 → exec (.seal p.id) s = done) ∧ (p.opcode = 0x7F → exec (.resetTenant p.id) s = done))

/-- R243, R252, R286, R287, R295: at the lead, with no follower to mirror to, STEP_BEGIN opens a closed step with its id and
clears the step-poison, and replies OK with the id; STEP_COMMIT of the open step's id closes it: unpoisoned with OK, the id
as its data and the live half inverted, poisoned with POISONED_STEP, no data and the live half as it was; anything else is
MALFORMED and changes no tenant. A commit waits while poison or a merge of the tenant is on its way. -/
def Obligations.StepsOpenAndCommit : Prop :=
  ∀ (s : State) (p : Packet), s.leads p = true → s.follower? = false → p.tenant < s.auth.tens.length →
    let y := s.auth.ten p.tenant
    let id := BitVec.ofNat 32 (fld (p.arg 1) 31 0)
    let frame := fun (u : State) =>
      (∀ t, t ≠ p.tenant → u.auth.ten t = s.auth.ten t) ∧ u.auth.bind = s.auth.bind ∧ u.blk.cores = s.blk.cores ∧ u.mem = s.mem
        ∧ u.aon = s.aon
    (s.Executes p 0x40 → ∃ u, exec (.stepBegin p.id) s = .next u ∧ frame u
      ∧ (y.stepOpen = true → u.auth.ten p.tenant = y ∧ s.Replied u p .malformed 0 0 0)
      ∧ (y.stepOpen = false → u.auth.ten p.tenant = { y with stepOpen := true, stepId := id, poison := false }
          ∧ s.Replied u p .ok 0 0 (word id.toNat)))
    ∧ (s.Executes p 0x41 → ∃ u, exec (.stepCommit p.id) s = .next u ∧ frame u
      ∧ ((y.stepOpen = false ∨ y.stepId ≠ id) → u.auth.ten p.tenant = y ∧ s.Replied u p .malformed 0 0 0)
      ∧ (y.stepOpen = true → y.stepId = id → y.poison = true →
          u.auth.ten p.tenant = { y with stepOpen := false } ∧ s.Replied u p .poisonedStep 0 0 0)
      ∧ (y.stepOpen = true → y.stepId = id → y.poison = false →
          u.auth.ten p.tenant = { y with stepOpen := false, live := !y.live } ∧ s.Replied u p .ok 0 0 (word id.toNat)))
    ∧ (p.opcode = 0x41 → s.unmerged p.tenant = true → s.holds p = true)

/-- R145, R252, R259: READ_HEALTH at the lead writes its tenant's health block, in word order, at the address that its
packet names, and replies OK with the block's words; with the clear option the sticky registers of the tenant are zero after
it and its step and live half stand. R235, R356: where the block lies at a port withdrawn by then, nothing is written or
cleared, and the reply is FAULT_FENCED with the withdrawn ports. -/
def Obligations.ReadHealthWritesTheBlock : Prop :=
  ∀ (s : State) (p : Packet),
    (∀ m, s.pkt? p.id = some p → p.opcode = 0x52 → s.cpRuns p.half = true → p.st = .ready → s.holds p = false →
      s.judge p = none → p.todo = [] → p.acted = [] → s.fencedBad p = some ⟨.faultFenced, 7, m⟩ →
      ∃ u, exec (.readHealth p.id) s = .next u ∧ u.mem = s.mem ∧ u.auth = s.auth ∧ u.blk.cores = s.blk.cores ∧ u.aon = s.aon
        ∧ s.Replied u p .faultFenced 7 m 0)
    ∧ (let b := s.healthBlock p.tenant (s.auth.coresOf p.tenant)
      let y := s.auth.ten p.tenant
      let a := s.packetAddr (s.started p) (fld (p.arg 1) 47 0) (8 * b.length)
      s.Executes p 0x52 → s.leads p = true → s.follower? = false → s.aon.sealed = true → p.tenant < s.auth.tens.length →
      s.lostRange a (8 * b.length) = false →
      ∃ u, exec (.readHealth p.id) s = .next u
      ∧ u.mem = s.mem.wrAll (wordBytes a b)
      ∧ u.auth.ten p.tenant = (if p.opt then { y with invDrains := 0, flags := 0, cap := 0 } else y)
      ∧ (∀ t, t ≠ p.tenant → u.auth.ten t = s.auth.ten t) ∧ u.auth.bind = s.auth.bind
      ∧ s.Replied u p .ok 0 0 (word b.length) ∧ u.blk.cores = s.blk.cores ∧ u.aon = s.aon)

/-- R251, R252, R264, R267, R268: a BIND whose cores are all ready acts on them: each that is not bound to the tenant yet
has no program, a zero store, generator 1, EMPTY slots, no row set, no slot record and cleared counters; its weight plane
stands, and so do the cores not named. The context of a core whose tenant has an eviction area is written there first. Once
that is done, and the merges that it caused have reached the lead (R277), the lead records the bindings, and the reply is OK with
the cores taken. No domain changes but those of unbound cores that a BIND or RELEASE which it ends had named, which go OFF (the
model's choice, log entry 11). -/
def Obligations.BindTakesCores : Prop :=
  (∀ (s : State) (p : Packet) (c u : Nat), s.bindIn (s.cp p.half).ts c = some u → s.tenEvict u = true →
    (s.takeCore p c).mem = (s.mem.clear (s.evictAddr u c) (ctxSize c)).wrAll
      (shift (s.evictAddr u c) ((s.core c).ctxRecord c u)))
  ∧ ∀ (s : State) (p : Packet),
    (s.Executes p 0x10 → p.ordered = false → (p.named s).all (s.bindReady p) = true →
      (∀ c u, s.bindIn (s.cp p.half).ts c = some u → s.tenEvict u = true → (s.core c).bad = []) →
      ∃ u, exec (.bind p.id) s = .next u ∧ u = (s.setPkt (s.started p)).bindAct (s.acting p)
        ∧ (∀ c k, c ∈ p.named s → s.bindIn (s.cp p.half).ts c ≠ some p.tenant → s.core? c = some k → u.core? c = some k.recycled)
        ∧ (∀ c, c ∉ p.named s → (u.core? c).map (·.store) = (s.core? c).map (·.store)
            ∧ (u.core? c).map (·.img) = (s.core? c).map (·.img) ∧ (u.core? c).map (·.gen) = (s.core? c).map (·.gen))
        ∧ ((∀ c u, s.bindIn (s.cp p.half).ts c = some u → s.tenEvict u = false) → u.mem = s.mem)
        ∧ ((∀ x ∈ s.blk.xfers, s.MoveOwned x) → u.aon = { s.aon with doms := u.aon.doms }
            ∧ ((∀ q ∈ s.blk.pkts, q.id ≠ p.id → q.opcode ≠ 0x10 ∧ q.opcode ≠ 0x11) → u.aon = s.aon)))
    ∧ (∀ k : Core, k.recycled.run = .reset ∧ k.recycled.img = .empty ∧ k.recycled.store = [] ∧ k.recycled.gen = 1
        ∧ k.recycled.slots = List.replicate 4 .reset ∧ k.recycled.banks = [] ∧ k.recycled.plain.sets = []
        ∧ k.recycled.plain.recs = [] ∧ k.recycled.plain.colAcc = [] ∧ k.recycled.plain.treeAcc = []
        ∧ k.recycled.plain.plane = k.plain.plane ∧ k.recycled.phases = List.replicate 32 .zero ∧ k.recycled.loops = loopsIdle
        ∧ k.recycled.eccCor = 0 ∧ k.recycled.eccUnc = 0 ∧ k.recycled.planePar = 0 ∧ k.recycled.rep.rowsEx = k.rep.rowsEx)
    ∧ (s.Acted p 0x10 → p.reported = true → s.leads p = true → s.mergedFor p = true → s.follower? = false →
      (∀ c ∈ p.acted, c < s.auth.bind.length) →
      ∃ u, exec (.bind p.id) s = .next u
        ∧ (∀ c, u.auth.bind.getD c none = if c ∈ p.acted then some p.tenant else s.auth.bind.getD c none)
        ∧ u.auth.tens = s.auth.tens ∧ s.Replied u p .ok 0 0 (word (maskOf p.acted))
        ∧ s.GoOn u p.id (p.todo ++ p.acted) ∧ u.mem = s.mem ∧ u.aon = s.aon)

/-- R252, R254, R267, R311: RELEASE clears its cores as BIND does, and the lead then records them as unbound, their domains
start to go OFF, and the reply is OK with the cores; RESET_TENANT ends the earlier packets of its tenant, which reply
NOT_PERMITTED with its sequence (at once where no follower has a mirror to bring up to date, R277), and clears its cores, whose
stores stand (the model's reading, log entry 30), and the lead
then, once the merges that it caused have reached it (R277), closes its step and clears its poison and sticky registers,
keeping the live half and the bindings. RELEASE and RESET_TENANT act on all their cores in one step by the model's choice (log
entry 1). -/
def Obligations.ReleaseAndResetTenantComplete : Prop :=
  ∀ (s : State) (p : Packet),
    (s.Executes p 0x11 → p.ordered = false → (p.named s).all s.releaseReady = true →
      ∃ u, exec (.release p.id) s = .next u ∧ u = (s.setPkt (s.started p)).releaseAct (s.acting p) ∧ u.mem = s.mem
        ∧ (∀ c k, c ∈ p.named s → s.core? c = some k → k.rep.coreFenced = false → u.core? c = some k.recycled)
        ∧ (∀ c, c ∉ p.named s → (u.core? c).map (·.store) = (s.core? c).map (·.store)
            ∧ (u.core? c).map (·.img) = (s.core? c).map (·.img)))
    ∧ (s.Acted p 0x11 → p.reported = true → s.leads p = true → s.mergedFor p = true → s.follower? = false →
      (∀ c ∈ p.acted, c < s.auth.bind.length) →
      ∃ u, exec (.release p.id) s = .next u
        ∧ (∀ c, u.auth.bind.getD c none = if c ∈ p.acted then none else s.auth.bind.getD c none)
        ∧ u.auth.tens = s.auth.tens ∧ s.Replied u p .ok 0 0 (word (maskOf p.acted))
        ∧ (∀ d, u.dom d = if d ∈ p.acted ∧ s.domOn d = true then .changing .off ((s.now + s.ticks 1) % 2 ^ 56) else s.dom d)
        ∧ s.GoOn u p.id (p.todo ++ p.acted) ∧ u.mem = s.mem ∧ u.aon = { s.aon with doms := u.aon.doms })
    ∧ (s.Executes p 0x7F → p.ordered = false →
      (p.named s).all (fun c => s.releaseReady c && s.merged p.tenant) = true →
      ∃ u, exec (.resetTenant p.id) s = .next u ∧ u = (s.setPkt (s.started p)).resetAct (s.acting p) ∧ u.mem = s.mem
        ∧ (∀ c k, c ∈ p.named s → s.core? c = some k → k.rep.coreFenced = false → u.core? c = some k.cleared)
        ∧ (∀ q, s.pkt? q.id = some q → q.id ≠ p.id → q.tenant = p.tenant → q.dispatched = true → q.order < p.order →
            s.follower? = false →
            u.pkt? q.id = none
              ∧ (s.sealSilent q = false → ⟨q.port, replyWord q Status.notPermitted.code 8 p.sequence, 0, 0⟩ ∈ u.blk.replies)))
    ∧ (∀ k : Core, k.cleared.run = .reset ∧ k.cleared.img = .empty ∧ k.cleared.fords = [] ∧ k.cleared.store = k.store
        ∧ k.cleared.gen = 1 ∧ k.cleared.slots = List.replicate 4 .reset ∧ k.cleared.plain.sets = [] ∧ k.cleared.flight = []
        ∧ k.cleared.plain.plane = k.plain.plane ∧ k.cleared.eccCor = k.eccCor)
    ∧ (s.Acted p 0x7F → p.reported = true → s.leads p = true → s.mergedFor p = true → s.follower? = false → p.tenant < s.auth.tens.length →
      ∃ u, exec (.resetTenant p.id) s = .next u
        ∧ u.auth.ten p.tenant = { s.auth.ten p.tenant with
            invDrains := 0, flags := 0, cap := 0, stepOpen := false, poison := false }
        ∧ (∀ t, t ≠ p.tenant → u.auth.ten t = s.auth.ten t) ∧ u.auth.bind = s.auth.bind
        ∧ s.Replied u p .ok 0 0 (word (maskOf p.acted)) ∧ s.GoOn u p.id (p.todo ++ p.acted) ∧ u.mem = s.mem ∧ u.aon = s.aon)

/-- R91, R250, R271, R272: SAVE_CONTEXT whose cores stand at their boundaries, none with a word marked uncorrectable, writes
one record a core in ascending order and no other byte, and each core is left in state 11 with its usable tiles, store, rows
and generator; RESTORE_CONTEXT of records that pass their checks sets every named core from its record, in state 11 where
its image passes. Both complete with the mask of the cores acted on, once the merges that they caused stand at
the lead, and at the mirror of a follower that is present (R277). The mask of RESTORE_CONTEXT, without cores left empty,
is the model's reading (log entry 30), and so is it that guest vectors which an overwritten core had not drained stay open (log
entry 14). -/
def Obligations.ContextsAreSavedAndRestored : Prop :=
  (∀ (s : State) (p : Packet),
    let named := p.named s
    let a := s.packetAddr (s.acting p) (fld (p.arg 2) 47 0) (ctxBytes named)
    let places := ctxPlaces named 0
    (s.Executes p 0x12 → p.ordered = false → named.all (fun c => (s.core c).atRest) = true →
      named.any (fun c => !(s.core c).bad.isEmpty) = false → s.mem.wf = true → (∀ c ∈ named, c < s.blk.cores.length) →
      ∃ u, exec (.saveContext p.id) s = .next u
        ∧ (∀ x ∈ places, ∀ i, i < ctxSize x.1 → u.mem.rd (a + x.2 + i) =
            (Mem.wrAll [] (((s.discardGuests x.1).core x.1).ctxRecord x.1 p.tenant)).rd i)
        ∧ (∀ b, b < a ∨ a + ctxBytes named ≤ b → u.mem.rd b = s.mem.rd b)
        ∧ (∀ c ∈ named, ∃ k', u.core? c = some k' ∧ k'.run.state = .saved ∧ k'.run.pc = (s.core c).run.pc
            ∧ k'.slots = (s.core c).slots.map (fun x => if x.st = .acc then x else .reset)
            ∧ k'.store = (s.core c).store ∧ k'.gen = (s.core c).gen ∧ k'.img = (s.core c).img ∧ k'.banks = (s.core c).banks
            ∧ k'.plain.plane = (s.core c).plain.plane ∧ k'.plain.colAcc = (s.core c).plain.colAcc
            ∧ k'.plain.treeAcc = (s.core c).plain.treeAcc ∧ k'.plain.recs = (s.core c).plain.recs)
        ∧ ((∀ x ∈ s.blk.xfers, x.owner ≠ .packet p.id) → u.pkt? p.id = some (s.acting p)))
    ∧ (s.Executes p 0x13 → p.ordered = false → named.all (fun c => (s.core c).atRest) = true →
      s.badRange (.fabric a) 0 (ctxBytes named) = false → (∀ x ∈ places, s.recordBad (a + x.2) x.1 p.tenant = none) →
      (∀ c ∈ named, c < s.blk.cores.length) →
      let run := fun i => (places.take i).foldl (fun (r : State) x => r.restoreOne (a + x.2) x.1) (s.setPkt (s.started p))
      ∃ u, exec (.restoreContext p.id) s = .next u ∧ u.mem = s.mem ∧ u.aon = s.aon ∧ u.hp = s.hp
        ∧ u.free = (run named.length).free
        ∧ (∀ c, c ∉ named → u.core? c = s.core? c)
        ∧ (∀ i x, places[i]? = some x → u.core? x.1 = some
            (((run i).leavePoison x.1 ((run i).core x.1) ((run i).core x.1).flight).restoredCore (a + x.2) x.1)
          ∧ ∃ k', u.core? x.1 = some k' ∧ k'.plain.orphans = ((run i).core x.1).openGuests)
        ∧ ∃ q, u.pkt? p.id = some q ∧ q.acted = named.filter fun c => decide ((u.core c).run.state = .saved))
    ∧ (∀ save : Bool, s.Acted p (if save then 0x12 else 0x13) → p.reported = true →
      let cmd : Instr := if save then .saveContext p.id else .restoreContext p.id
      (s.mergedFor p = false → exec cmd s = .next (s.setPkt p))
      ∧ (s.mergedFor p = true → s.follower? = true → (s.cp s.leadHalf.other).ts.gen ≠ s.auth.gen →
        exec cmd s = .next (s.setPkt
          { p with st := .mirror s.auth.gen, reply := some (replyOf p .ok (word (maskOf p.acted))) }))
      ∧ (s.mergedFor p = true → s.follower? = false ∨ (s.cp s.leadHalf.other).ts.gen = s.auth.gen →
        exec cmd s = .next (s.complete p .ok 0 0 (word (maskOf p.acted))))))
  ∧ (∀ (s : State) (a c : Nat) (im : Image), ctxImage s.mem a = some im → checkImage s.cfg c s.blk.cores im = none →
    let k := s.restoredCore a c
    let w := fun i => s.mem.word (a + 8 * i)
    k.run.state = .saved ∧ k.img = im ∧ k.run.pc = fld (w 1) 55 45 ∧ k.run.runs = BitVec.ofNat 32 (fld (w 1) 31 0)
      ∧ k.gen = w 2 ∧ (∀ l, l < 4 → fld (w 3) (16 * l + 15) (16 * l) = 0xFFFF → k.loops[l]? = some none)
      ∧ ((s.core c).rep.fenced = 0 → k.store = s.mem.part (a + ctxStore c) (storeSize (isCol c))))

/-- R57, R58, R342: SET_SEED whose cores are all free, idle or at a boundary, loads the generator of each with the seed XOR (c
<< 56), or with 1 where that is zero, and lets them go on; while one is not free it loads none and holds the running ones that
it reaches, and SEED_LOAD then loads all once the last is at its boundary, and no earlier command that the cores wait for
comes before it there (R246; that it acts on all in one step is the model's choice, log entry 1). A core fenced before that
fails the packet, and no generator changes. With every core loaded SET_SEED completes with their mask. Memory, the always-on
domain and every core not named stand. -/
def Obligations.SetSeedLoadsGenerators : Prop :=
  ∀ (s : State) (p : Packet),
    let gen := fun c => let v := p.arg 2 ^^^ (BitVec.ofNat 64 c <<< 56); if v = 0 then (1 : Word) else v
    let still := fun (u : State) => u.mem = s.mem ∧ u.aon = s.aon ∧ u.hp = s.hp
    let loads := fun (q : Packet) (cs : List Nat) (u : State) => still u
      ∧ (∀ c k, s.core? c = some k → u.core? c = some
          (if c ∈ cs then { k with gen := gen c, run := if s.wanted p.id c then k.run else { k.run with hold := false } } else k))
      ∧ u.pkt? p.id = some { q with todo := [], acted := q.acted ++ cs }
    let waits := fun (q : Packet) (cs : List Nat) (u : State) => still u
      ∧ (∀ c k, s.core? c = some k → u.core? c = some
          (if c ∈ cs ∧ s.reaches p c = true ∧ k.run.state = .running then { k with run := { k.run with hold := true } } else k))
      ∧ u.pkt? p.id = some q
    (s.Executes p 0x60 → p.named s ≠ [] →
      ∃ u, exec (.setSeed p.id) s = .next u
        ∧ if (p.named s).all (s.coreFree p) = true then loads (s.started p) (p.named s) u else waits (s.started p) (p.named s) u)
    ∧ (∀ c k, s.pkt? p.id = some p → p.opcode = 0x60 → p.st = .acting → c ∈ p.todo → s.Has c k →
        k.atRest = true → s.fencedBad p = none → s.cpRuns p.half = true →
      ∃ u, exec (.seedLoad p.id c) s = .next u
        ∧ if p.todo.all (s.coreFree p) = true ∧ (p.ordered && s.coreHeld p) = false then loads p p.todo u
          else waits p p.todo u)
    ∧ (∀ b, s.pkt? p.id = some p → p.opcode = 0x60 → p.st = .acting → s.cpRuns p.half = true → s.fencedBad p = some b →
        (s.blk.cores.all fun k => k.plain.fills.all fun f => decide (f.pk ≠ some p.id)) = true →
      ∃ u, exec (.setSeed p.id) s = .next u ∧ s.Replied u p b.status b.dkind b.detail 0
        ∧ ∀ c, (u.core? c).map (·.gen) = (s.core? c).map (·.gen))
    ∧ (s.pkt? p.id = some p → p.opcode = 0x60 → s.cpRuns p.half = true → p.st = .acting → s.fencedBad p = none →
        p.todo = [] → p.pagesLeft = 0 → p.reported = true →
      exec (.setSeed p.id) s =
        .next (s.complete { p with acted := p.acted.mergeSort } .ok 0 0 (word (maskOf p.acted.mergeSort))))

/-- R186, R197, R213, R228: LOAD_PROGRAM whose cores are idle and whose image every one of them accepts replaces the program
of each: its image stands there at pc 0 in state LOADED with no run counted, its Fords have count 0 and the targets of their
entries, every reduce Ford its empty status line, and its timers are zero; guest vectors that wait in its guest Fords stay
open (R118; the model's choice, log entry 31). It completes with the mask of cores and the
image's region. -/
def Obligations.LoadProgramComplete : Prop :=
  ∀ (s : State) (p : Packet),
    (s.Executes p 0x20 → p.ordered = false → (p.named s).all s.idleCore = true →
      (∀ c ∈ p.named s, ∃ im, s.imageFor (s.acting p) (fld (p.arg 2) 47 0) c = .ok im) →
      ∃ u, exec (.loadProgram p.id) s = .next u ∧ u.mem = s.mem ∧ u.aon = s.aon ∧ u.hp = s.hp
        ∧ u.pkt? p.id = some (s.acting p)
        ∧ (∀ c, c ∉ p.named s → u.core? c = s.core? c)
        ∧ ∀ c k im, c ∈ p.named s → s.core? c = some k → s.imageFor (s.acting p) (fld (p.arg 2) 47 0) c = .ok im →
            ∃ k', u.core? c = some k' ∧ k'.img = im ∧ k'.run.state = .loaded ∧ k'.run.pc = 0 ∧ k'.run.runs = 0
              ∧ k'.fords = im.fords.map (fun w => ⟨0, BitVec.ofNat 16 (fordTarget w), [], 0⟩)
              ∧ k'.store = k.store.wrAll ((im.fords.filter fordReduce).flatMap fun w =>
                  wordBytes (fordBase w) [word (1 <<< 56), 0, 0, 0, 0, 0, 0, 0])
              ∧ k'.phases = List.replicate 32 .zero ∧ k'.slots = k.slots ∧ k'.gen = k.gen
              ∧ k'.plain = { k.plain with orphans := k.plain.orphans ++ k.waitingGuests })
    ∧ (s.Acted p 0x20 → p.reported = true → exec (.loadProgram p.id) s =
        .next (s.complete p .ok 0 0 (word (put 47 32 (s.regionOf p) + maskOf p.acted))))

/-- R194, R197, R213, R250, R256: RUN on idle cores starts each that holds a program: RUNNING for this packet and tenant, from
instruction 0 with no tag, no loop counter and no list unless it resumes a saved context, with its parameter line, if the
packet asks for one, at the base of the Ford that the packet names and one arrival counted there; a core with no program gives
its status at once. RUN of no cores completes with OK. R243, R250, R277, R335: when every named core of a RUN has ended, what
repairs there had to log is logged, no merge of its tenant is on its way and the other command processor has reported and a
follower that is present holds what the lead has merged, its reply carries the status that ranks highest among its cores',
ties to the lowest core, with no detail where that is good, with the fenced cores where that core ended because it is fenced,
and else with the core and the index of its instruction. -/
def Obligations.RunsStartAndReply : Prop :=
  (∀ (s : State) (p : Packet),
      (s.Executes p 0x21 → p.ordered = false → (p.named s).all s.idleCore = true →
        paramBad p ((p.named s).map s.core) = none →
        ∃ u, exec (.run p.id) s = .next u ∧ u.mem = s.mem ∧ u.aon = s.aon ∧ u.hp = s.hp
          ∧ (∀ c, (c ∉ p.named s ∨ (s.core c).noRun ≠ none) → u.core? c = s.core? c)
          ∧ (∃ q, u.pkt? p.id = some q ∧ q.st = .running ∧ q.acted = p.named s ∧ q.chunks = 1 ∧ q.chunk = 0
              ∧ q.results = p.results ++ (p.named s).filterMap fun c =>
                  (s.core c).noRun.map fun st => ⟨c, st, (s.core c).run.failIdx, false, false, (s.core c).rep.coreFenced⟩)
          ∧ ∀ c k, c ∈ p.named s → s.core? c = some k → k.noRun = none →
              ∃ k', u.core? c = some k' ∧ k'.run.state = .running ∧ k'.run.pkt = some p.id ∧ k'.run.tenant = p.tenant
                ∧ k'.run.hold = false ∧ k'.img = k.img ∧ k'.gen = k.gen ∧ (k.flight = [] → k'.banks = k.banks)
                ∧ k.TookLine k' p (paramLine 0 0 1 0 (p.words.drop 2))
                ∧ ((p.opt = false ∨ k.flight = []) → k'.run.ending = none)
                ∧ (¬(p.opt = true ∧ k.run.state = .saved) →
                    k'.run.ending = none ∧ k'.run.pc = 0 ∧ k'.slots = List.replicate 4 .reset ∧ k'.loops = loopsIdle
                      ∧ k'.lists = listsEmpty
                    ∧ k'.flight = [] ∧ k'.plain.sets = [] ∧ k'.banks = k.banks)
                ∧ (p.opt = true ∧ k.run.state = .saved →
                    k'.run.pc = k.run.pc ∧ k'.loops = k.loops ∧ k'.lists = k.lists
                    ∧ ∀ i, { k'.slot i with passes := (k.slot i).passes, stale := (k.slot i).stale } = k.slot i))
      ∧ (s.Acted p 0x21 → p.acted = [] → p.reported = true → exec (.run p.id) s = .next (s.complete p .ok 0 0 0)))
  ∧ (∀ (s : State) (p : Packet), s.Acted p 0x21 → p.acted ≠ [] → p.results.length = p.acted.length → p.chunk = 0 → p.chunks = 1 →
      s.merged p.tenant = true → s.repaired p = true → p.reported = true → p.quiet = false →
      (s.follower? = true → (s.cp s.leadHalf.other).ts.gen = s.auth.gen) →
      ∃ (u : State) (r : CoreRes) (w0 w1 : Word), exec (.runCompletion p.id) s = .next u
        ∧ u.blk.replies = s.blk.replies ++ [⟨p.port, w0, w1, 0⟩] ∧ u.pkt? p.id = none
        ∧ r ∈ p.results ∧ fld w0 63 56 = r.status.toNat ∧ fld w0 55 40 = p.sequence ∧ fld w0 39 36 = p.tenant
        ∧ (∀ q ∈ p.results, rankOf r.status.toNat ≤ rankOf q.status.toNat
            ∧ (rankOf r.status.toNat = rankOf q.status.toNat → r.core ≤ q.core))
        ∧ (goodStatus r.status = true → fld w0 35 32 = 0 ∧ fld w0 31 0 = 0)
        ∧ (goodStatus r.status = false → r.fenced = true → fld w0 35 32 = 4
            ∧ ∀ c, c < 32 → bitOf w0 c = p.results.any fun q => q.core == c && q.fenced)
        ∧ (goodStatus r.status = false → r.fenced = false → r.core < 32 → r.failIdx < 2048 →
            fld w0 35 32 = 3 ∧ fld w0 31 27 = r.core ∧ fld w0 26 16 = r.failIdx ∧ fld w0 15 0 = 0)
        ∧ s.GoOn u p.id (p.todo ++ p.acted) ∧ u.mem = s.mem ∧ u.aon = s.aon ∧ u.hp = s.hp)

/-- R243, R250, R252, R255, R256, R257: SELECT_BUCKET of no length or no cores completes with OK and the length requested;
else, where its table passes its checks, a length that fits no bucket is BUCKET_OVERFLOW without the clamp option, and where
the bucket's images pass theirs, each named core runs, from its first instruction, the image of bucket b for this packet,
with the parameter line of its chunk: b is the first bucket whose length is not less than the length requested, or with the
option the last one, and the run then has as many chunks as cover the length. When every core of a chunk has ended well, what it
merged stands at the lead (R277), and a chunk is left, the next chunk starts on the same cores with its own parameter line; where
one of them has been fenced meanwhile, none does, and the packet ends with FAULT_FENCED and the fenced cores (R342). A chunk that
did not end well is the last: no other starts. After the last chunk the reply carries the highest status of the chunks, with
dkind 0x6, the number of chunks run to completion and the bucket, and, where that status is good, the length requested and the
length of the bucket. -/
def Obligations.SelectBucketRunsABucket : Prop :=
  ∀ (s : State) (p : Packet),
    let named := p.named s
    let len := fld (p.arg 3) 31 0
    let void := p.coresMask = 0 ∨ len = 0
    (s.Executes p 0x22 → p.ordered = false → named.all s.idleCore = true → void →
      exec (.selectBucket p.id) s = .next ((s.setPkt (s.started p)).setPkt (s.acting p)))
    ∧ (s.Acted p 0x22 → void → p.reported = true →
      exec (.selectBucket p.id) s = .next (s.complete p .ok 0 0 (word (put 63 32 len))))
    ∧ (∀ (a nb : Nat),
      let w0 := s.mem.word (s.packetAddr (s.acting p) (fld (p.arg 2) 47 0) 8)
      let np := named.length
      let ws := s.mem.words a (1 + nb + nb * np)
      let lens := (ws.drop 1).take nb
      s.Executes p 0x22 → p.ordered = false → named.all s.idleCore = true → ¬void → nb = fld w0 51 48 + 1 →
      s.translate p.tenant (s.acting p).live 0 (fld (p.arg 2) 47 0) (8 * (1 + nb + nb * np)) = some a →
      s.inWindow p.tenant a (8 * (1 + nb + nb * np)) = true → s.lostRange a (8 * (1 + nb + nb * np)) = false →
      s.badRange (.fabric a) 0 (8 * (1 + nb + nb * np)) = false →
      bucketBad w0 lens (ws.drop (1 + nb)) np = false →
      ((∀ j, j < nb → fld (lens.getD j 0) 15 0 < len) → p.opt = false →
        exec (.selectBucket p.id) s = .next ((s.setPkt (s.started p)).complete (s.acting p) .bucketOverflow 0 0 0))
      ∧ (∀ (b : Nat) (im : Nat → Image),
        let imgs := (ws.drop (1 + nb + b * np)).take np
        let bl := fld (lens.getD b 0) 15 0
        let chunks := if len ≤ bl then 1 else (len + bl - 1) / bl
        b < nb → (∀ j, j < b → fld (lens.getD j 0) 15 0 < len) → (len ≤ bl ∨ (b + 1 = nb ∧ p.opt = true)) →
        (∀ x ∈ named.zip imgs, s.imageFor (s.acting p) (fld x.2 47 0) x.1 = .ok (im x.1)
          ∧ fld ((im x.1).hdr.getD 2 0) 63 48 = bl ∧ fld ((im x.1).hdr.getD 2 0) 47 32 = fld w0 15 0) →
        paramBad p ((named.zip imgs).map fun x => (s.core x.1).choose (im x.1)) = none →
        ∃ u, exec (.selectBucket p.id) s = .next u ∧ u.mem = s.mem ∧ u.aon = s.aon
          ∧ (∀ c, c ∉ named → u.core? c = s.core? c)
          ∧ (∃ q, u.pkt? p.id = some q ∧ q.st = .running ∧ q.chunk = 0 ∧ q.chunks = chunks ∧ q.bucket = b
              ∧ q.bucketLen = bl ∧ q.acted = named)
          ∧ ∀ c k, c ∈ named → s.core? c = some k → (k.choose (im c)).noRun = none →
              ∃ k', u.core? c = some k' ∧ k'.img = (k.choose (im c)).img ∧ k'.img.addr = (im c).addr ∧ k'.run.state = .running
                ∧ k'.run.pkt = some p.id ∧ k'.run.tenant = p.tenant ∧ k'.run.pc = 0 ∧ k'.run.chunk = 0
                ∧ (k.choose (im c)).TookLine k' p (paramLine (min bl len) 0 chunks len (p.words.drop 4))))
    ∧ (s.Acted p 0x22 → p.acted ≠ [] → p.chunkEnded = true → p.chunkGood p.chunk = true → p.chunk + 1 < p.chunks →
      s.merged p.tenant = true → p.reported = true → (s.follower? = true → (s.cp s.leadHalf.other).ts.gen = s.auth.gen) →
      p.acted.all s.idleCore = true → p.lost = false → s.fencedOf p ≠ 0 →
      exec (.selectBucketChunk p.id) s = .next (s.complete p .faultFenced 4 (s.fencedOf p) 0))
    ∧ (s.Acted p 0x22 → p.acted ≠ [] → p.acted.Nodup → p.chunkEnded = true → p.chunkGood p.chunk = true →
      p.chunk + 1 < p.chunks → s.merged p.tenant = true → p.acted.all s.idleCore = true → p.lost = false → s.fencedOf p = 0 →
      paramBad p (p.acted.map s.core) = none →
      ∃ u, exec (.selectBucketChunk p.id) s = .next u ∧ u.mem = s.mem ∧ u.aon = s.aon
        ∧ (∀ c, c ∉ p.acted → u.core? c = s.core? c)
        ∧ (∃ q, u.pkt? p.id = some q ∧ q.chunk = p.chunk + 1 ∧ q.chunks = p.chunks ∧ q.acted = p.acted)
        ∧ ∀ c k, c ∈ p.acted → s.core? c = some k → k.noRun = none →
            ∃ k', u.core? c = some k' ∧ k'.img = k.img ∧ k'.run.state = .running ∧ k'.run.chunk = p.chunk + 1
              ∧ k'.run.pkt = some p.id ∧ k'.run.pc = 0
              ∧ k.TookLine k' p (paramLine (min p.bucketLen (len - (p.chunk + 1) * p.bucketLen)) (p.chunk + 1) p.chunks len
                  (p.words.drop 4)))
    ∧ (s.pkt? p.id = some p → p.chunkGood p.chunk = false → exec (.selectBucketChunk p.id) s = .next s)
    ∧ (s.Acted p 0x22 → p.acted ≠ [] → p.chunkEnded = true → (p.chunkGood p.chunk = false ∨ p.chunks ≤ p.chunk + 1) →
      s.merged p.tenant = true → s.repaired p = true → p.reported = true → p.quiet = false →
      (s.follower? = true → (s.cp s.leadHalf.other).ts.gen = s.auth.gen) →
      ∃ (u : State) (r : CoreRes) (w0 w1 : Word), exec (.runCompletion p.id) s = .next u
        ∧ u.blk.replies = s.blk.replies ++ [⟨p.port, w0, w1, 0⟩] ∧ u.pkt? p.id = none
        ∧ r ∈ p.results ∧ (∀ q ∈ p.results, rankOf r.status.toNat ≤ rankOf q.status.toNat)
        ∧ fld w0 63 56 = r.status.toNat ∧ fld w0 55 40 = p.sequence ∧ fld w0 39 36 = p.tenant ∧ fld w0 35 32 = 6
        ∧ (p.chunk < 65535 → fld w0 31 16 = ((List.range (p.chunk + 1)).filter p.chunkGood).length)
        ∧ (p.bucket < 65536 → fld w0 15 0 = p.bucket)
        ∧ (carriesData r.status.toNat = true → fld w1 63 32 = len ∧ fld w1 31 16 = 0
            ∧ (p.bucketLen < 65536 → fld w1 15 0 = p.bucketLen))
        ∧ (carriesData r.status.toNat = false → w1 = 0)
        ∧ s.GoOn u p.id (p.todo ++ p.acted) ∧ u.mem = s.mem ∧ u.aon = s.aon ∧ u.hp = s.hp)

/-- R198, R207, R218, R254: MOVE that moves bytes starts one transfer of its own between the places that its packet names;
one that moves none completes at once, but into a Ford sends an empty transfer. -/
def Obligations.MoveStartsATransfer : Prop :=
  ∀ (s : State) (p : Packet), s.Executes p 0x30 →
    let t := p.moveTI
    let place := fun (kind a pitch : Nat) => if kind = 0
      then Loc.fabric (if p.moveVoid then 0 else s.packetAddr (s.started p) a ((t.rows - 1) * pitch + t.rowBytes))
      else movePlace kind a
    let src := place (if t.xSrcKind = 0 then 0 else 1) t.xSrc t.xSrcPitch
    let dst := place t.xDstKind t.xDst t.xDstPitch
    let run := { s.started p with st := .running, todo := [] }
    (p.moveVoid = true → t.xDstKind ≠ 2 → exec (.move p.id) s = .next (s.complete (s.started p) .ok 0 0 0))
    ∧ (p.moveVoid = true → t.xDstKind = 2 → exec (.move p.id) s =
        .next ((s.setPkt run).startXfer p.tenant (.packet p.id) dst (t.copy src)))
    ∧ (p.moveVoid = false →
        (t.xSrcKind = 1 → (s.core (t.xSrc / 2 ^ 40 % 32)).touchesGuest (t.xSrc % 2 ^ 32)
          ((t.rows - 1) * t.xSrcPitch + t.rowBytes) = false) →
        s.skewPast dst (t.copy src) = false →
        exec (.move p.id) s = .next ((s.setPkt run).startXfer p.tenant (.packet p.id) dst (t.copy src)))

/-- R100, R101, R254, R342: FILL_PAGES whose cores are all free, idle or at a boundary, puts its pages, in order, behind the
fill buffer of each, and lets them go on; while one is not free it orders none and holds the running ones that it reaches, and
FILL_PAGES_AT_BOUNDARY then orders all once the last is at its boundary, and no earlier command that the cores wait for comes
before it there (R246; that it acts on all in one step is the model's choice, log entry 1); it completes with the mask of its
cores when every page of every core has committed. -/
def Obligations.FillPagesComplete : Prop :=
  ∀ (s : State) (p : Packet),
    let orders := fun (q : Packet) (cs : List Nat) (u : State) =>
      u = ((cs.foldl (fun s c => s.orderFills q c) s).letGo p.id cs).setPkt { q with todo := [], acted := q.acted ++ cs }
        ∧ u.mem = s.mem
        ∧ (∀ c k, s.core? c = some k → ∃ k', u.core? c = some k'
            ∧ k'.plain.fills.map Fill.ask = (k.plain.fills ++ if c ∈ cs then s.fillsOf q else []).map Fill.ask
            ∧ (c ∈ cs → s.wanted p.id c = false → k'.run.hold = false) ∧ k'.store = k.store ∧ k'.img = k.img
            ∧ k'.gen = k.gen ∧ k'.plain.plane = k.plain.plane)
    let waits := fun (q : Packet) (cs : List Nat) (u : State) => u.mem = s.mem ∧ u.aon = s.aon ∧ u.hp = s.hp
      ∧ (∀ c k, s.core? c = some k → u.core? c = some
          (if c ∈ cs ∧ s.reaches p c = true ∧ k.run.state = .running then { k with run := { k.run with hold := true } } else k))
      ∧ u.pkt? p.id = some q
    (s.Executes p 0x31 → p.fillCount ≠ 0 → p.named s ≠ [] → p.pagesLeft = 0 →
      let q := { s.started p with pagesLeft := p.fillCount * (p.named s).length }
      ∃ u, exec (.fillPages p.id) s = .next u
        ∧ if (p.named s).all (s.coreFree p) = true then orders q (p.named s) u else waits q (p.named s) u)
    ∧ (∀ c k, s.pkt? p.id = some p → p.opcode = 0x31 → p.st = .acting → c ∈ p.todo → p.todo.Nodup → s.Has c k →
        k.atRest = true → s.fencedBad p = none → s.cpRuns p.half = true →
      ∃ u, exec (.fillPagesAtBoundary p.id c) s = .next u
        ∧ if p.todo.all (s.coreFree p) = true ∧ (p.ordered && s.coreHeld p) = false then orders p p.todo u
          else waits p p.todo u)
    ∧ (s.pkt? p.id = some p → p.opcode = 0x31 → s.cpRuns p.half = true → p.st = .acting → s.fencedBad p = none →
        p.todo = [] → p.acted ≠ [] → p.fillCount ≠ 0 → p.pagesLeft = 0 → p.reported = true →
      exec (.fillPages p.id) s =
        .next (s.complete { p with acted := p.acted.mergeSort } .ok 0 0 (word (maskOf p.acted.mergeSort))))
    ∧ (∀ i, i < p.fillCount → ((s.fillsOf p)[i]?).map Fill.ask = some
        (s.packetAddr p (fld (p.arg 2) 47 0) (p.fillCount * pageBytes p.fillCls) + i * pageBytes p.fillCls, p.fillCls,
          p.fillFirst + i * (if p.fillCls ≤ 1 then 1 else if p.fillCls = 2 then 2 else 4), none, some p.id))

/-- R213, R254, R258: PHASE_MARK writes the always-on time into the phase timer that it names of every named core, and
counts the mark with saturation at 255, and replies the time; READ_TIMERS writes the timers of its cores in ascending order,
zeros for a fenced core, clears them with the clear option, and replies the number of words. -/
def Obligations.TimersAreMarkedAndRead : Prop :=
  ∀ (s : State) (p : Packet),
    (s.Executes p 0x42 → p.ordered = false →
      ∃ u, exec (.phaseMark p.id) s = .next u ∧ u.mem = s.mem ∧ u.aon = s.aon ∧ u.hp = s.hp
        ∧ u.pkt? p.id = some { s.acting p with pagesLeft := s.aon.time.toNat }
        ∧ (∀ c, c ∉ p.named s → u.core? c = s.core? c)
        ∧ ∀ c k, c ∈ p.named s → s.core? c = some k → u.core? c = some { k with
            phases := k.phases.modify (fld p.hdr 4 0) fun x => ⟨BitVec.ofNat 8 (min (x.marks.toNat + 1) 255), s.aon.time⟩ })
    ∧ (s.Acted p 0x42 → p.reported = true →
        exec (.phaseMark p.id) s = .next (s.complete p .ok 0 0 (word p.pagesLeft)))
    ∧ (s.Executes p 0x51 → p.ordered = false →
      let words := (p.named s).flatMap fun c => if (s.core c).rep.coreFenced then List.replicate 32 0
        else (((s.core c).phases ++ List.replicate 32 PhaseT.zero).take 32).map PhaseT.word
      ∃ u, exec (.readTimers p.id) s = .next u ∧ u.aon = s.aon ∧ u.hp = s.hp
        ∧ u.mem = s.mem.wrAll (wordBytes
            (s.packetAddr (s.acting p) (fld (p.arg 2) 47 0) (256 * (p.named s).length)) words)
        ∧ (∀ c, c ∉ p.named s → u.core? c = s.core? c)
        ∧ ∀ c k, c ∈ p.named s → s.core? c = some k → u.core? c = some
            (if p.opt then { k with phases := List.replicate 32 PhaseT.zero } else k))
    ∧ (s.Acted p 0x51 → p.reported = true →
        exec (.readTimers p.id) s = .next (s.complete p .ok 0 0 (word (32 * p.acted.length))))

/-- R245, R260, R263, R264, R367: before SEAL, WRITE_POLICY replaces the value words of its field and completes with OK, and
after it a sound WRITE_POLICY or SEAL replies SEALED and changes no word; a SEAL whose policy passes its checks seals it,
gives the roles of the two halves, OFF to one whose command processor is in reset (R278), with epoch 1, gives every host port to
the half that the policy names as its home, records the CRC and
turns every core's domain OFF, and replies at its port unless that has no ring; one whose policy fails them is MALFORMED. That a
command processor in reset then has no current copy when it leaves reset is the model's reading (log entry 22). -/
def Obligations.PolicyIsWrittenThenSealed : Prop :=
  ∀ (s : State) (p : Packet),
    (s.pkt? p.id = some p → s.cpRuns p.half = true → p.st = .ready → s.holds p = false → p.headerBad = none →
      s.aon.sealed = true →
      (p.opcode = 0x70 → exec (.writePolicy p.id) s = .next (s.complete p .sealed 0 0 0))
      ∧ (p.opcode = 0x71 → exec (.seal p.id) s = .next (s.complete p .sealed 0 0 0)))
    ∧ (∀ i n, policySlot p.polIdx = some (i, n) → s.Executes p 0x70 → s.aon.sealed = false → s.aon.policy.length = 113 →
      ∃ u, exec (.writePolicy p.id) s = .next u ∧ u.aon.policy.length = 113 ∧ s.Replied u p .ok 0 0 0
        ∧ (∀ j, j < n → u.pw (i + j) = p.arg (1 + j)) ∧ (∀ j, (j < i ∨ i + n ≤ j) → u.pw j = s.pw j)
        ∧ u.aon = { s.aon with policy := u.aon.policy } ∧ u.blk.cores = s.blk.cores ∧ u.mem = s.mem)
    ∧ (s.Executes p 0x71 → s.sealOk = true → s.shaped = true →
      ∃ u, exec (.seal p.id) s = .next u ∧ u.aon.sealed = true ∧ u.aon.phase = .sealed ∧ u.aon.policy = s.aon.policy
        ∧ u.aon.policyCrc = s.polCrc ∧ u.aon.epochW = 1 ∧ u.aon.epochE = 1 ∧ u.pkt? p.id = none
        ∧ u.aon.roleW = (if s.cpUp .west = false then .off
            else if s.cfg.hasEast = false ∨ s.polLeadEast = false then .lead else .follower)
        ∧ u.aon.roleE = (if s.cpUp .east = false then .off else if s.polLeadEast = true then .lead else .follower)
        ∧ (∀ c, c < s.cfg.nCores → s.domOn c = true →
            u.dom c = .changing .off ((s.now + s.ticks 1) % 2 ^ 56))
        ∧ (∀ q h, s.hp[q]? = some h → ∃ h', u.hp[q]? = some h'
            ∧ h'.cpHalf = (if s.hostExists q = true then s.hostHome q else .west)
            ∧ (q ≠ p.port → h' = { h with cpHalf := h'.cpHalf }))
        ∧ (s.cfg.hasEast = true → ∀ h, s.cpUp h = false → (u.cp h).current = false)
        ∧ (s.sealSilent p = true → u.blk.replies = s.blk.replies)
        ∧ (s.sealSilent p = false → p.quiet = false →
            u.blk.replies = s.blk.replies ++ [⟨p.port, replyWord p 0 0 0, s.sealIt.sealWord, 0⟩])
        ∧ u.blk.cores = s.blk.cores ∧ u.mem = s.mem)
    ∧ (s.Executes p 0x71 → s.sealOk = false →
      exec (.seal p.id) s = .next (s.complete (s.started p) .malformed 0 0 0))

/-! ### Dispatch, replies and registers -/

/-- R235, R241, R244 to R246, R248, R282, R356: dispatch takes the first waiting packet of the ports that a half serves,
round-robin: one with a sound header that its command processor may not execute now is parked unjudged, a packet that fails a
check completes with its status, a sound one that nothing holds becomes ready, and one that something holds is parked; unparking
does the same for a parked packet once nothing holds it. The oldest reply of a port goes into the ring entry that HEAD names,
both words, little-endian; HEAD moves on within the ring, the credit returns and bits 0 and 1 of the port's interrupt status
are set. A ring that is full or not enabled holds the reply and sets bit 2, and an entry in a granule of a withdrawn port is not
written, and the reply waits (the model's reading, log entry 8). -/
def Obligations.PacketsAreDispatchedAndAnswered : Prop :=
  (∀ (s : State) (p : Packet),
    (∀ h, s.hasCp h = true → s.cpRuns h = true → s.nextPacket h = some p → s.pkt? p.id = some p →
      let q := { p with half := h, order := s.blk.nextOrd, st := .parked }
      let s1 := (s.modCp h fun k => { k with rr := (p.port + 1) % 8 })
      let s2 := ({ s1 with blk := { s1.blk with nextOrd := s.blk.nextOrd + 1 } }).setPkt q
      (q.headerBad = none → s2.leadHeld q = true → exec (.packetDispatch h) s = .next (s2.setPkt { q with st := .parked }))
      ∧ (∀ b, (q.headerBad ≠ none ∨ s2.leadHeld q = false) → s2.judge q = some b →
          exec (.packetDispatch h) s = .next (s2.complete q b.status b.dkind b.detail 0))
      ∧ (s2.judge q = none → s2.leadHeld q = false →
          exec (.packetDispatch h) s = .next (s2.sendOrder { q with st := if s2.holds q then .parked else .ready })
          ∧ ((q.named s2).all (fun c => decide (s2.servedBy c = h)) = true →
            ∃ u, exec (.packetDispatch h) s = .next u
              ∧ u.pkt? p.id = some { q with st := if s2.holds q then .parked else .ready }
              ∧ u.blk.cores = s.blk.cores ∧ u.mem = s.mem ∧ u.aon = s.aon ∧ u.hp = s.hp ∧ u.blk.replies = s.blk.replies)))
    ∧ (s.pkt? p.id = some p → p.st = .parked → s.cpRuns p.half = true → s.holds p = false →
      exec (.packetUnpark p.id) s = .next (s.enqueue p)
      ∧ (s.judge p = none → (p.named s).all (fun c => decide (s.servedBy c = p.half)) = true →
          exec (.packetUnpark p.id) s = .next (s.setPkt { p with st := .ready }))))
  ∧ ∀ (s : State) (p : Nat) (h : HostPort) (r : Reply), p < 8 → s.hp[p]? = some h → s.portsOpen = true →
    s.blk.replies.find? (fun x => x.port == p) = some r →
    (h.en = true → h.full = false → s.lostRange (4096 * h.base.toNat + 16 * h.head.toNat) 16 = true →
      exec (.replyWrite p) s = .next s)
    ∧ (h.en = true → h.full = false → s.lostRange (4096 * h.base.toNat + 16 * h.head.toNat) 16 = false →
      ∃ u, exec (.replyWrite p) s = .next u
        ∧ u.mem = s.mem.wrAll (wordBytes (4096 * h.base.toNat + 16 * h.head.toNat) [r.w0, r.w1])
        ∧ u.hp[p]? = some { h with
            head := BitVec.ofNat 16 ((h.head.toNat + 1) % ringEntries h.size.toNat)
            credits := h.credits + 1, irq := h.irq ||| 3 }
        ∧ (∀ q, q ≠ p → u.hp[q]? = s.hp[q]?)
        ∧ u.blk.replies = s.blk.replies.eraseP (fun x => x.port == p)
        ∧ u.blk.cores = s.blk.cores ∧ u.blk.pkts = s.blk.pkts ∧ u.aon = s.aon)
    ∧ ((h.en = false ∨ h.full = true) →
      exec (.replyWrite p) s = .next (s.modHp p fun x => { x with irq := x.irq ||| 4 }))

/-- R117, R225, R264, R268, R273: the values of one tenant are isolated from the others. A command that does not renew every
core changes the values of a core only where it is the core's own row, executes a packet on the core, or delivers to it. A
packet that starts after SEAL names only cores bound to its tenant, but for BIND, whose cores are unbound, bound to its
tenant, or to one whose bit the submitting host's rebind mask holds; its ranges, and those that an instruction may name, lie
in windows of its tenant. A delivery is accepted only by a core that is bound to the sender's tenant, or of guest vectors of
an image that the policy shares. The windows of a sealed policy do not overlap. -/
def Obligations.TenantsAreIsolated : Prop :=
  (∀ (s u : State) (i : Instr) (c : Nat) (k k' : Core), s.shaped = true → renewsCores i = false → exec i s = .next u →
    s.Has c k → u.core? c = some k' → k'.values ≠ k.values →
    rowCore i = some c ∨ (∃ p, s.ActsOn i p c) ∨ ∃ t dst, s.Delivers i t dst ∧ locCore dst = some c ∧ s.Accepts t c dst)
  ∧ (∀ (s : State) (x : Transfer) (c : Nat), x.refusal s = none → locCore x.dst = some c → s.Accepts x.tenant c x.dst)
  ∧ (∀ (s : State) (p : Packet) (c : Nat), s.aon.sealed = true → s.judge p = none → c ∈ p.named s → c < s.cfg.nCores →
    (p.opcode ∈ [0x11, 0x12, 0x13, 0x20, 0x21, 0x22, 0x30, 0x31, 0x42, 0x51, 0x60] →
      s.bindIn (s.cp p.half).ts c = some p.tenant)
    ∧ (p.opcode = 0x10 → ∀ u, s.bindIn (s.cp p.half).ts c = some u →
        u = p.tenant ∨ (s.hostRebind p.port).testBit u = true))
  ∧ (∀ (s : State) (p : Packet) r, s.aon.sealed = true → s.judge p = none → s.hostExists p.port = true → p.opcode ≠ 0x01 →
    p.opcode ≠ 0x50 → r ∈ p.ranges s → r.2.2.1 ≠ 0 → aliasBad r.2.1 = false →
    ∃ a, s.translate p.tenant ((s.cp p.half).ts.ten p.tenant).live 0 r.2.1 r.2.2.1 = some a ∧ s.inWindow p.tenant a r.2.2.1 = true)
  ∧ (∀ (s : State) (k : Core) (a n b : Nat) (w : Bool), s.fabricAt k a n w = .ok b → s.inWindow k.run.tenant b n = true)
  ∧ (∀ (s u : State) (p : Packet), s.Executes p 0x71 → exec (.seal p.id) s = .next u → u.aon.sealed = true →
    s.aon.sealed = false → State.overlapping s.windows = false ∧ u.windows = s.windows)

/-- R238, R240: a full-width word at HP_SUBMIT, with the block awake and its ports open, starts a packet and takes a credit,
goes on with the packet under assembly, or completes it, which submits the packet with the port's number in its header; a
header with no credit sets bit 3 of the interrupt status and is lost. R318, R319, R323: a full-width word does the same at the
port while the block enters sleep, when it also abandons the entry: what has left ON comes back; and while the block is asleep
or wakes, when it also sets the host cause, and wakes a sleeping block where that is enabled. -/
def Obligations.SubmittedWordsAssemble : Prop :=
  (∀ (s : State) (p : Nat) (h : HostPort) (w : Word), p < 8 → s.hp[p]? = some h → s.portsOpen = true →
    s.aon.asleep = false → s.aon.sleep = .awake →
    (h.asm = [] → h.credits = 0 → exec (.hpSubmit p w 0xFF) s = .next (s.modHp p fun x => { x with irq := x.irq ||| 8 }))
    ∧ (h.asm = [] → h.credits ≠ 0 → 2 ≤ fld w 55 48 → fld w 55 48 ≤ 32 → exec (.hpSubmit p w 0xFF) s =
        .next (s.modHp p fun x => { x with credits := h.credits - 1, asm := [w], asmLen := fld w 55 48 }))
    ∧ (h.asm = [] → h.credits ≠ 0 → ¬(2 ≤ fld w 55 48 ∧ fld w 55 48 ≤ 32) → exec (.hpSubmit p w 0xFF) s =
        .next ((s.modHp p fun x => { x with credits := h.credits - 1 }).submit p [w]))
    ∧ (h.asm ≠ [] → h.asm.length + 1 = h.asmLen → ∃ (u : State) (q : Packet), exec (.hpSubmit p w 0xFF) s = .next u
        ∧ u.blk.pkts = s.blk.pkts ++ [q] ∧ q.id = s.blk.nextPk ∧ q.port = p ∧ q.st = .waiting
        ∧ q.words = (h.asm ++ [w]).modifyHead (withPort p) ∧ u.hp[p]? = some { h with asm := [], asmLen := 0 }
        ∧ u.blk.cores = s.blk.cores ∧ u.mem = s.mem ∧ u.aon = s.aon)
    ∧ (h.asm ≠ [] → h.asm.length + 1 ≠ h.asmLen → exec (.hpSubmit p w 0xFF) s =
        .next (s.modHp p fun x => { x with asm := h.asm ++ [w] }))
    ∧ (∀ strb : BitVec 8, strb ≠ 0xFF → exec (.hpSubmit p w strb) s =
        .next (s.modHp p fun x => { x with irq := x.irq ||| 8 })))
  ∧ (∀ (s : State) (p : Nat) (w : Word), p < 8 → s.portsOpen = true →
    let awake := { s with aon := { s.aon with asleep := false, sleep := .awake } }
    ∃ v, exec (.hpSubmit p w 0xFF) awake = .next v
      ∧ (s.aon.asleep = true → exec (.hpSubmit p w 0xFF) s = .next { v with aon := { s.aon with
          cause := s.aon.cause ||| 4, firedNow := s.aon.firedNow ||| 4
          wakeHit := s.aon.wakeHit || (decide (s.aon.sleep = .asleep) && s.aon.wakeEn.getLsbD 2) } })
      ∧ (s.aon.asleep = false → s.aon.sleep ≠ .entering → exec (.hpSubmit p w 0xFF) s = .next { v with aon := s.aon })
      ∧ (s.aon.asleep = false → s.aon.sleep = .entering → ∃ u, exec (.hpSubmit p w 0xFF) s = .next u
          ∧ u.aon.sleep = .awake ∧ u.hp = v.hp ∧ u.blk.pkts = v.blk.pkts ∧ u.blk.nextPk = v.blk.nextPk
          ∧ u.blk.cores = s.blk.cores ∧ u.mem = s.mem ∧ (∀ g, (u.cp g).ts = (s.cp g).ts)
          ∧ (s.shaped = true → ∀ d, d < s.cfg.nDoms →
              (s.dom d = .still .retain ∨ (∃ t, s.dom d = .changing .retain t) →
                u.dom d = .changing .on ((s.now + s.ticks 2) % 2 ^ 56))
              ∧ (s.dom d ≠ .still .retain → (∀ t, s.dom d ≠ .changing .retain t) → u.dom d = s.dom d))))

/-- R13, R238, R239, R245, R352, R364: with the ports open, a full-width write sets the ring registers where R245 allows it and
sets bit 4 of the interrupt status where it does not, sets TAIL within the ring, and clears interrupt bits by ones, bit 5 by
discarding the packet under assembly and returning its credit. While a port is isolated a write to it stalls: it waits, and
nothing else changes. A read changes nothing; it gives the fields of the register at its word offset, reserved bits and
unlisted offsets reading zero, and stalls while the port is isolated. -/
def Obligations.PortRegistersAreAccessed : Prop :=
  (∀ (s : State) (p : Nat) (w : Word) (strb : BitVec 8), p < 8 → s.portsOpen = false →
    let stalled := fun (off : Nat) => s.modHp p fun x => { x with stall := x.stall ++ [(off, w, strb)] }
    exec (.hpSubmit p w strb) s = .next (stalled 0) ∧ exec (.hpReplyBase p w strb) s = .next (stalled 0x10)
    ∧ exec (.hpReplyTail p w strb) s = .next (stalled 0x20) ∧ exec (.hpIrqStatus p w strb) s = .next (stalled 0x28)
    ∧ ∀ off, exec (.registerWrite (some p) off w strb) s = .next (stalled off) ∧ s.hpRead p off = none)
  ∧ ∀ (s : State) (p : Nat) (h : HostPort) (w : Word), p < 8 → s.hp[p]? = some h → s.portsOpen = true →
    let base := fld w 47 12
    let size := fld w 3 0
    let whole := h.credits = 16 ∧ h.asm = [] ∧ size ≤ 8 ∧ (4096 * base) % (16 * ringEntries size) = 0
      ∧ s.ringPlaceOk p (4096 * base) size = true
    let toggle := base = h.base.toNat ∧ size = h.size.toNat ∧ bitOf w 4 ≠ h.en
    (toggle → bitOf w 4 = true → s.aon.sealed = true → s.ringInWindow p (4096 * base) size = false →
        exec (.hpReplyBase p w 0xFF) s = .next (s.modHp p fun x => { x with irq := x.irq ||| 16 }))
    ∧ (¬toggle → whole → exec (.hpReplyBase p w 0xFF) s = .next (s.modHp p fun x => { x with
        base := BitVec.ofNat 36 base, en := bitOf w 4, size := BitVec.ofNat 4 size, head := 0, tail := 0 }))
    ∧ (toggle → (bitOf w 4 = false ∨ s.aon.sealed = false ∨ s.ringInWindow p (4096 * base) size = true) →
        exec (.hpReplyBase p w 0xFF) s = .next (s.modHp p fun x => { x with en := bitOf w 4 }))
    ∧ (¬toggle → ¬whole → exec (.hpReplyBase p w 0xFF) s = .next (s.modHp p fun x => { x with irq := x.irq ||| 16 }))
    ∧ exec (.hpReplyTail p w 0xFF) s = .next (s.modHp p fun x => { x with
        tail := BitVec.ofNat 16 (fld w 15 0 % ringEntries h.size.toNat) })
    ∧ (bitOf w 5 = false ∨ h.asm = [] → exec (.hpIrqStatus p w 0xFF) s =
        .next (s.modHp p fun x => { x with irq := x.irq &&& ~~~(BitVec.ofNat 7 (fld w 6 0)) }))
    ∧ (bitOf w 5 = true → h.asm ≠ [] → ∃ u, exec (.hpIrqStatus p w 0xFF) s = .next u
        ∧ u.hp[p]? = some { h with
            irq := (h.irq &&& ~~~(BitVec.ofNat 7 (fld w 6 0))) ||| 2, asm := [], asmLen := 0, credits := h.credits + 1 }
        ∧ (∀ q, q ≠ p → u.hp[q]? = s.hp[q]?) ∧ u.blk = s.blk ∧ u.mem = s.mem ∧ u.aon = s.aon)
    ∧ (∀ off, s.hpRead p off = s.hpRead p (off / 8 * 8))
    ∧ (∀ off, off / 8 * 8 ∉ [0x08, 0x10, 0x18, 0x20, 0x28, 0x30, 0x38] → s.hpRead p off = some 0)
    ∧ (h.credits ≤ 16 → h.asm.length ≤ 31 → ∃ w, s.hpRead p 0x08 = some w ∧ fld w 4 0 = h.credits ∧ fld w 12 8 = h.asm.length
        ∧ fld w 63 13 = 0 ∧ fld w 7 5 = 0)
    ∧ (∃ w, s.hpRead p 0x10 = some w ∧ fld w 47 12 = h.base.toNat ∧ bitOf w 4 = h.en ∧ fld w 3 0 = h.size.toNat
        ∧ fld w 63 48 = 0 ∧ fld w 11 5 = 0)
    ∧ (∃ w, s.hpRead p 0x18 = some w ∧ w.toNat = h.head.toNat) ∧ (∃ w, s.hpRead p 0x20 = some w ∧ w.toNat = h.tail.toNat)
    ∧ (∃ w, s.hpRead p 0x28 = some w ∧ fld w 63 7 = 0 ∧ bitOf w 5 = (h.irq.getLsbD 5 || !h.asm.isEmpty)
        ∧ ∀ i, i < 7 → i ≠ 5 → bitOf w i = h.irq.getLsbD i)
    ∧ (∃ w, s.hpRead p 0x30 = some w ∧ w.toNat = h.mask.toNat)
    ∧ (∃ w, s.hpRead p 0x38 = some w ∧ fld w 63 48 = 0xA5D2 ∧ fld w 47 40 = 1 ∧ bitOf w 35 = s.aon.sealed
        ∧ bitOf w 34 = decide (h.cpHalf = .east) ∧ fld w 18 16 = p ∧ fld w 15 0 = s.portTenants p % 65536
        ∧ fld w 39 36 = 0 ∧ fld w 33 19 = 0)
    ∧ (∃ u, exec (.registerWrite (some p) 0x30 w 0xFF) s = .next u ∧ u.hpRead p 0x30 = some (word (fld w 6 0)))

/-- R13, R238, R365, R369: a register write reaches the register at its offset: at a host port the interrupt mask, whose
reserved bits are ignored, and at the management port each register that the table lists, test_refused of BOOT_STATE cleared
by a one; a write at any other offset, one below full width but to HP_SUBMIT, or to the management port in SCAN_LOCK, changes
nothing. R321 to R323, R317: a full-width write outside SCAN_LOCK sets AON_ALARM, AON_WAKE with its causes cleared by ones,
but for those that fire in the same tick and the host cause while host_wake is seen high, and PWR_CEILING with each field
clamped to its range, by which a survey's wait for a floor above the new vmax ends (R327); before SEAL it sets AON_REF where
the value is from 10,000 to 100,000, and ignores it elsewhere. A read changes nothing: in SCAN_LOCK it gives zero with
mg_rsp_err, and so it does of a register of another domain that is not ON or in phase RESET; else it gives the fields of the
register at its word offset, and zero at offsets not listed. -/
def Obligations.RegistersAreAccessed : Prop :=
  (∀ (s : State) (p : Nat) (h : HostPort) (w : Word) (strb : BitVec 8), p < 8 → s.hp[p]? = some h →
      (s.portsOpen = true → exec (.registerWrite (some p) 0x30 w 0xFF) s =
        .next (s.modHp p fun x => { x with mask := BitVec.ofNat 7 (w.toNat % 128) }))
      ∧ (s.portsOpen = true → ∀ off, off / 8 * 8 ∉ [0x00, 0x10, 0x20, 0x28, 0x30] →
          exec (.registerWrite (some p) off w strb) s = .next s)
      ∧ (s.portsOpen = true → strb ≠ 0xFF → ∀ off, off / 8 * 8 ≠ 0 → exec (.registerWrite (some p) off w strb) s = .next s)
      ∧ exec (.registerWrite (some p) 0x00 w strb) s = exec (.hpSubmit p w strb) s
      ∧ exec (.registerWrite (some p) 0x10 w strb) s = exec (.hpReplyBase p w strb) s
      ∧ exec (.registerWrite (some p) 0x20 w strb) s = exec (.hpReplyTail p w strb) s
      ∧ exec (.registerWrite (some p) 0x28 w strb) s = exec (.hpIrqStatus p w strb) s
      ∧ exec (.registerWrite none 0x108 w strb) s = exec (.aonRef w strb) s
      ∧ exec (.registerWrite none 0x110 w strb) s = exec (.aonAlarm w strb) s
      ∧ exec (.registerWrite none 0x130 w strb) s = exec (.aonWake w strb) s
      ∧ exec (.registerWrite none 0x200 w strb) s = exec (.pwrCeiling w strb) s
      ∧ exec (.registerWrite none 0x608 w strb) s = exec (.fuseProgram w strb) s
      ∧ exec (.registerWrite none 0x1100 w strb) s = exec (.repairLogClear w strb) s
      ∧ (s.mgAccepts 0xFF = true → exec (.registerWrite none 0x20 w 0xFF) s =
          .next { s with aon := { s.aon with testRefused := s.aon.testRefused && !bitOf w 7 } })
      ∧ (s.mgAccepts 0xFF = true → exec (.registerWrite none 0x118 w 0xFF) s =
          .next { s with aon := { s.aon with therm := BitVec.ofNat 10 (w.toNat % 1024) } })
      ∧ (s.bootAccepts 0xFF = true → s.aon.fuses.state = .idle → exec (.registerWrite none 0x600 w 0xFF) s =
          .next { s with aon := { s.aon with fuses := { s.aon.fuses with prog := w } } })
      ∧ (strb ≠ 0xFF ∨ s.aon.phase = .scanLock → ∀ off, exec (.registerWrite none off w strb) s = .next s)
      ∧ (∀ off, off / 8 * 8 ∉ [0x20, 0x108, 0x110, 0x118, 0x130, 0x200, 0x600, 0x608, 0x1100] →
          exec (.registerWrite none off w strb) s = .next s))
  ∧ (∀ (s : State) (w : Word), s.mgAccepts 0xFF = true →
      exec (.aonAlarm w 0xFF) s = .next { s with aon := { s.aon with
        armed := bitOf w 63, alarm := BitVec.ofNat 56 (fld w 55 0), armedNow := true } }
      ∧ (let c := s.aon.cause &&& ~~~(BitVec.ofNat 4 (fld w 3 0) &&& ~~~s.aon.firedNow)
         let s1 := { s with aon := { s.aon with wakeEn := BitVec.ofNat 4 (fld w 11 8), cause := c } }
         (∀ i, i < 4 → bitOf w i = true → s.aon.firedNow.getLsbD i = false → c.getLsbD i = false)
         ∧ (∀ i, i < 4 → s.aon.firedNow.getLsbD i = true → c.getLsbD i = s.aon.cause.getLsbD i)
         ∧ (s.seen.hostWake = true → c.getLsbD 2 = false → exec (.aonWake w 0xFF) s = .next (s1.setCause 2))
         ∧ ((s.seen.hostWake = false ∨ c.getLsbD 2 = true) → exec (.aonWake w 0xFF) s = .next s1))
      ∧ (let vmax := max 10 (min 70 (fld w 22 16))
         let there := s.aon.power.request = false ∧ min s.aon.power.floor.toNat vmax ≤ s.aon.power.vreq.toNat
         exec (.pwrCeiling w 0xFF) s = .next { s with
          aon := { s.aon with power := { s.aon.power with
            tjLimit := BitVec.ofNat 10 (max 0x218 (min 0x2A4 (fld w 41 32)))
            vmax := BitVec.ofNat 7 vmax
            ceiling := BitVec.ofNat 16 (max s.cfg.wattsMin (min s.cfg.wattsMax (fld w 15 0))) } }
          blk := { s.blk with survey := s.blk.survey.map fun v =>
            if v.round = .floor ∧ v.settled = false ∧ there then { v with settled := true, since := s.now } else v } })
      ∧ (s.aon.sealed = false → 10000 ≤ fld w 16 0 → fld w 16 0 ≤ 100000 → exec (.aonRef w 0xFF) s =
          .next { s with aon := { s.aon with refKhz := BitVec.ofNat 17 (fld w 16 0) } })
      ∧ (s.aon.sealed = true ∨ fld w 16 0 < 10000 ∨ 100000 < fld w 16 0 → exec (.aonRef w 0xFF) s = .next s))
  ∧ (∀ (s : State),
      (∀ off, s.mgRead off = s.mgRead (off / 8 * 8))
      ∧ (s.aon.phase = .scanLock → ∀ off, s.mgRead off = (0, true))
      ∧ (s.aon.phase ≠ .scanLock →
          (∀ off d, s.regDomain (off / 8 * 8) = some d → (s.aon.phase = .reset ∨ s.domOn d = false) → s.mgRead off = (0, true))
          ∧ (s.mgRead 0x00).1 = s.aon.caps0 ∧ (s.mgRead 0x08).1 = s.aon.caps1
          ∧ (let w := (s.mgRead 0x10).1
             fld w 63 32 = s.aon.policyCrc.toNat ∧ bitOf w 16 = s.aon.leadHalf ∧ bitOf w 0 = s.aon.sealed ∧ fld w 31 17 = 0
               ∧ fld w 15 1 = 0)
          ∧ (let w := (s.mgRead 0x18).1
             fld w 15 0 = s.aon.clamps.toNat ∧ fld w 18 16 = s.aon.bootPort.toNat % 8 ∧ bitOf w 19 = s.aon.strapErr)
          ∧ (let w := (s.mgRead 0x20).1
             bitOf w 7 = s.aon.testRefused ∧ fld w 2 0 = s.aon.phase.code ∧ fld w 63 8 = 0)
          ∧ (s.mgRead 0x100).1.toNat = s.aon.time.toNat ∧ (s.mgRead 0x108).1.toNat = s.aon.refKhz.toNat
          ∧ (let w := (s.mgRead 0x110).1
             bitOf w 63 = s.aon.armed ∧ fld w 55 0 = s.aon.alarm.toNat)
          ∧ (s.mgRead 0x118).1.toNat = s.aon.therm.toNat ∧ (s.mgRead 0x120).1.toNat = s.aon.busy.toNat
          ∧ (s.mgRead 0x128).1.toNat = s.aon.surveyAt.toNat
          ∧ (let w := (s.mgRead 0x130).1
             fld w 3 0 = s.aon.cause.toNat ∧ fld w 11 8 = s.aon.wakeEn.toNat ∧ bitOf w 16 = s.aon.asleep)
          ∧ (let w := (s.mgRead 0x138).1
             fld w 63 48 = s.aon.epochW.toNat ∧ fld w 47 32 = s.aon.epochE.toNat ∧ fld w 7 6 = s.aon.roleW.code
               ∧ fld w 5 4 = s.aon.roleE.code ∧ bitOf w 0 = s.aon.saddleUp)
          ∧ (let w := (s.mgRead 0x200).1
             fld w 41 32 = s.aon.power.tjLimit.toNat ∧ fld w 22 16 = s.aon.power.vmax.toNat
               ∧ fld w 15 0 = s.aon.power.ceiling.toNat)
          ∧ (let w := (s.mgRead 0x208).1
             fld w 63 48 = s.aon.power.est.toNat ∧ fld w 47 38 = s.aon.power.hotCode.toNat ∧ fld w 37 32 = s.aon.power.hotSite.toNat
               ∧ fld w 31 25 = s.aon.power.vreq.toNat ∧ fld w 24 18 = s.aon.power.floor.toNat
               ∧ fld w 17 14 = s.aon.power.gate.toNat ∧ fld w 13 12 = s.aon.power.limit.toNat)
          ∧ (∀ d, d < s.cfg.nDoms → d < 32 → fld (s.mgRead 0x210).1 (2 * d + 1) (2 * d) = (s.dom d).code)
          ∧ (∀ d, 32 ≤ d → d < s.cfg.nDoms → d < 40 → fld (s.mgRead 0x218).1 (2 * d - 63) (2 * d - 64) = (s.dom d).code)
          ∧ (∀ d g, d < s.cfg.nDoms → d < 40 → s.hasTaps d = true → g < 16 → s.aon.phase ≠ .reset → s.domOn d = true →
              fld (s.mgRead (0x400 + 8 * d)).1 (4 * g + 3) (4 * g) = (s.tapOf d g) ∧ (s.mgRead (0x400 + 8 * d)).2 = false)
          ∧ (s.mgRead 0x600).1 = s.aon.fuses.prog
          ∧ (let w := (s.mgRead 0x608).1
             bitOf w 63 = false ∧ bitOf w 62 = decide (s.aon.fuses.state ≠ .idle) ∧ fld w 61 60 = s.aon.fuses.result.toNat
               ∧ fld w 23 16 = s.aon.fuses.badRecs.toNat ∧ fld w 9 8 = s.aon.fuses.op.toNat ∧ fld w 7 0 = s.aon.fuses.slot.toNat)
          ∧ (∀ i, i < 32 → (s.mgRead (0x1000 + 8 * i)).1 = s.aon.fuses.log.getD i 0)
          ∧ (s.aon.fuses.log.length ≤ 32 → let w := (s.mgRead 0x1100).1
             bitOf w 8 = s.aon.fuses.overflow ∧ fld w 7 0 = s.aon.fuses.log.length)
          ∧ (∀ r, r < 1280 → (s.mgRead (0x8000 + 8 * r)).1 = Tab.get 0 s.aon.fuses.recs r)
          ∧ (∀ g, g < 32 → (s.mgRead (0x6000 + 8 * g)) =
              if s.cfg.nCores ≤ g / 2 * 2 then (0, false)
              else if s.aon.phase = .reset ∨ s.domOn (g / 2 * 2) = false then (0, true) else (s.epochWord g, false))
          ∧ (∀ off, 0x220 ≤ off → off < 0x300 ∨ 0x540 ≤ off ∧ off < 0x600 ∨ 0x1108 ≤ off ∧ off < 0x4000 ∨ 0xA800 ≤ off →
              s.mgRead off = (0, false))))

/-! ### Power, sleep, time, surveys, fuses, resets -/

/-- R309, R314, R317, R323, R328: with 1 µs passed since the last window, and the lead command processor up, a control
window records its estimate and moves: over the ceiling or the junction limit one code of the supply down, or at the floor
one level of the gate up; after 8 calm windows on a cool chip one level of the gate down, or at gate 0 one code up; else
nothing. Under a trip the gate is 15 and the supply goes to the floor. vcore_ack ends the request, and a floor round of a
survey counts its time from then; under WS_INTEST the block does not see the pin (R371). A sample of the sensors records every
site and the hottest, trips at 125 °C, releases the trip below 115 °C, and drives the thermal comparator; in reset the power
group stands (R363). The saturation of est_w, and that under a trip the supply takes its steps at samples too, but not while the
block sleeps, are the model's readings (log entry 23). -/
def Obligations.PowerManagerSteps : Prop :=
  ∀ (s : State),
    let a := s.aon.power
    let nearer := fun v goal : Nat => if v < goal then v + 1 else if goal < v then v - 1 else v
    (∀ watts, s.cpUp s.leadHalf = true → s.past a.windowAt 1 = true →
      ∃ u, exec (.controlWindow watts) s = .next u ∧ u = { s with aon := { s.aon with power := u.aon.power } }
        ∧ let b := u.aon.power
          let high := a.ceiling.toNat < watts ∨ a.tjLimit.toNat < a.hotCode.toNat
          let calm := (decide (100 * watts < 97 * a.ceiling.toNat) :: a.calm).take 8 = List.replicate 8 true
            ∧ a.hotCode.toNat + 8 < a.tjLimit.toNat
          b.est = BitVec.ofNat 16 (min 0xFFFF watts) ∧ b.windowAt = s.now
          ∧ b.ceiling = a.ceiling ∧ b.vmax = a.vmax ∧ b.tjLimit = a.tjLimit ∧ b.floor = a.floor
          ∧ b.calm = (decide (100 * watts < 97 * a.ceiling.toNat) :: a.calm).take 8
          ∧ b.vreq.toNat ≤ a.vreq.toNat + 1 ∧ a.vreq.toNat ≤ b.vreq.toNat + 1
          ∧ (a.request = true → b.vreq = a.vreq) ∧ (b.vreq ≠ a.vreq → b.request = true)
          ∧ (a.trip = true → b.gate = 15 ∧ (a.request = false → b.vreq.toNat = nearer a.vreq.toNat a.floor.toNat))
          ∧ (a.trip = false →
              b.gate.toNat ≤ a.gate.toNat + 1 ∧ a.gate.toNat ≤ b.gate.toNat + 1
              ∧ (a.vreq.toNat < b.vreq.toNat → b.gate = a.gate ∨ a.vreq.toNat < a.floor.toNat))
          ∧ (a.trip = false → a.request = false → a.floor.toNat ≤ a.vreq.toNat → a.vreq.toNat ≤ a.vmax.toNat →
              (high → a.floor.toNat < a.vreq.toNat → b.vreq.toNat + 1 = a.vreq.toNat ∧ b.gate = a.gate)
              ∧ (high → a.floor.toNat = a.vreq.toNat → b.vreq = a.vreq ∧ b.gate.toNat = min 15 (a.gate.toNat + 1))
              ∧ (¬high → calm → 0 < a.gate.toNat → b.vreq = a.vreq ∧ b.gate.toNat + 1 = a.gate.toNat)
              ∧ (¬high → calm → a.gate = 0 → b.gate = 0 ∧ b.vreq.toNat = min a.vmax.toNat (a.vreq.toNat + 1))
              ∧ (¬high → ¬calm → b.vreq = a.vreq ∧ b.gate = a.gate)))
    ∧ (s.intest = true → exec .vcoreAck s = .next s)
    ∧ (s.intest = false → exec .vcoreAck s = .next { s with
        aon := { s.aon with power := { a with request := false } }
        blk := { s.blk with survey := s.blk.survey.map fun v =>
          if v.round = .floor ∧ v.settled = false ∧ min a.floor.toNat a.vmax.toNat ≤ a.vreq.toNat then
            { v with settled := true, since := s.now }
          else v } })
    ∧ (∀ codes : List Nat, codes.length = 64 → (∀ x ∈ codes, x < 1024) →
      s.past s.aon.sampledAt (if s.aon.asleep then 1000 else 10) = true →
      ∃ u, exec (.sensorSample codes) s = .next u ∧ u.aon.sensors = codes ∧ u.aon.sampledAt = s.now
        ∧ let b := u.aon.power
          let hot := b.hotCode.toNat
          hot ∈ codes ∧ (∀ x ∈ codes, x ≤ hot) ∧ codes[b.hotSite.toNat]? = some hot
          ∧ b.trip = (decide (756 ≤ hot) || (a.trip && decide (716 ≤ hot)))
          ∧ (b.trip = true → s.pins.blkRstLow = false → b.gate = 15 ∧ b.vreq.toNat =
              if s.aon.sleep ≠ .asleep ∧ a.request = false then nearer a.vreq.toNat a.floor.toNat else a.vreq.toNat)
          ∧ (b.trip = false ∨ s.pins.blkRstLow = true → b.gate = a.gate ∧ b.vreq = a.vreq ∧ b.request = a.request)
          ∧ b.floor = a.floor ∧ b.ceiling = a.ceiling
          ∧ (s.aon.thermArmed = true → s.aon.therm.toNat ≤ hot →
              u.aon.thermArmed = false ∧ u.aon.cause = s.aon.cause ||| 2)
          ∧ (hot + 8 ≤ s.aon.therm.toNat → u.aon.thermArmed = true ∧ u.aon.cause = s.aon.cause)
          ∧ (s.aon.therm.toNat < hot + 8 → (s.aon.thermArmed = true → hot < s.aon.therm.toNat) →
              u.aon.thermArmed = s.aon.thermArmed ∧ u.aon.cause = s.aon.cause)
          ∧ u.blk = s.blk ∧ u.hp = s.hp ∧ u.mem = s.mem ∧ u.aon.doms = s.aon.doms)

/-- R311, R312, R320: a domain that changes comes to rest in the state it changes to once its time has come, a port group that
comes ON once every acknowledge has been taken back: a core that goes OFF keeps nothing but its repair maps, and one that goes
to RETAIN or comes ON keeps everything. While the block wakes, a domain leaves RETAIN when its turn has come and is ON 2 µs
later. R318 to R320: the level of pwr_sleep_req and of mem_sleep_ack is taken; the block enters sleep, brings its domains to
RETAIN once its stacks hold, acknowledges when they have come to rest, starts to wake when the request falls or an enabled
cause fires, and is awake when every domain is back. An entry is abandoned where the request falls or a cause is set before
the acknowledge: what has left ON comes back; a new entry awaits it, before its own step 3, at the Valley network, and a port
group comes ON in it though its stacks acknowledge anew; a domain that comes ON after its step 3, or while the block sleeps,
goes to RETAIN too. Under WS_INTEST the block sees pwr_sleep_req as the boundary register drives it (R371). Bindings, policy
and steps stand throughout. What becomes of a domain that comes ON during or after the entry, and when a port group leaves
RETAIN, is the model's reading (log entry 24). -/
def Obligations.DomainsRestAndTheBlockSleeps : Prop :=
  (∀ (s : State), s.shaped = true →
      (∀ (c : Nat) (k : Core) (goal : Rest) (due : Nat), s.Has c k → s.dom c = .changing goal due → s.reached due = true →
        ∃ u, exec (.domainTransition c) s = .next u ∧ u.dom c = .still goal ∧ (∀ d, d ≠ c → u.dom d = s.dom d)
          ∧ u.core? c = some (if goal = .off then k.poweredOff else k)
          ∧ (∀ d, d ≠ c → u.core? d = s.core? d) ∧ u.mem = s.mem ∧ u.hp = s.hp)
      ∧ (∀ (d : Nat) (goal : Rest) (due : Nat), s.cfg.nCores ≤ d → d < s.cfg.nDoms → s.dom d = .changing goal due →
        s.reached due = true →
        (s.domAon < d → d ≠ s.domValley → goal = .on → s.groupsBack = true ∨ s.aon.sleep = .entering) →
        ∃ u, exec (.domainTransition d) s = .next u ∧ u.dom d = .still goal ∧ (∀ e, e ≠ d → u.dom e = s.dom e)
          ∧ u.blk.cores = s.blk.cores ∧ (∀ h, (u.cp h).ts = (s.cp h).ts) ∧ u.mem = s.mem ∧ u.hp = s.hp)
      ∧ (∀ (d t : Nat), d < s.cfg.nDoms → s.dom d = .still .retain → s.aon.sleep = .waking t →
        s.reached (s.halvesAfter t (s.leaves d)) = true →
        exec (.domainTransition d) s = .next { s with aon := { s.aon with
          doms := s.aon.doms.set d (.changing .on (s.halvesAfter t (s.leaves d + 4))) } }))
  ∧ (∀ (s : State),
      let abandoned := fun u : State => u.aon.sleep = .awake ∧ u.blk.cores = s.blk.cores ∧ u.mem = s.mem
        ∧ u.aon.policy = s.aon.policy ∧ (∀ h, (u.cp h).ts = (s.cp h).ts)
        ∧ (s.shaped = true → ∀ d, d < s.cfg.nDoms →
            (s.dom d = .still .retain ∨ (∃ t, s.dom d = .changing .retain t) →
              u.dom d = .changing .on ((s.now + s.ticks 2) % 2 ^ 56))
            ∧ (s.dom d ≠ .still .retain → (∀ t, s.dom d ≠ .changing .retain t) → u.dom d = s.dom d))
      exec (.pwrSleepReq true) s = .next { s with pins := { s.pins with sleepReq := true } }
      ∧ (s.intest = true → exec (.pwrSleepReq false) s = .next { s with pins := { s.pins with sleepReq := false } })
      ∧ (s.intest = false → s.aon.sleep = .asleep → exec (.pwrSleepReq false) s = .next { s with
          pins := { s.pins with sleepReq := false }, aon := { s.aon with wakeHit := true } })
      ∧ (s.intest = false → s.aon.sleep = .entering → ∃ u, exec (.pwrSleepReq false) s = .next u ∧ u.pins.sleepReq = false
      ∧ abandoned u)
      ∧ (s.aon.sleep ≠ .entering → s.aon.sleep ≠ .asleep →
          exec (.pwrSleepReq false) s = .next { s with pins := { s.pins with sleepReq := false } })
      ∧ (∀ g l, g < s.cfg.nGroups → exec (.memSleepAck g l) s =
          .next { s with pins := { s.pins with memSleepAck := s.pins.memSleepAck.set g l } })
      ∧ (s.aon.sleep = .awake → s.maySleep = true →
          exec .sleepEntry s = .next { s with aon := { s.aon with sleep := .entering } })
      ∧ (s.aon.sleep = .entering → s.aon.cause ≠ 0 → ∃ u, exec .sleepEntry s = .next u ∧ abandoned u)
      ∧ (s.aon.sleep = .entering → s.aon.cause = 0 → s.domOn s.domValley = true → s.stacksHold = true → s.shaped = true →
          ∃ u, exec .sleepEntry s = .next u ∧ u.mem = s.mem ∧ u.blk.cores = s.blk.cores ∧ u.aon.policy = s.aon.policy
            ∧ (∀ h, (u.cp h).ts = (s.cp h).ts)
            ∧ ∀ d, d < s.cfg.nDoms → u.dom d = if s.domOn d = true ∧ d ≠ s.domAon
                then .changing .retain ((s.now + s.ticks 1) % 2 ^ 56) else s.dom d)
      ∧ (s.aon.sleep = .entering → s.aon.cause = 0 → s.valleyAway = false → (s.domOn s.domValley = false ∨ s.stacksHold = false) →
          exec .sleepEntry s = .next s)
      ∧ (s.aon.sleep = .entering → s.aon.cause = 0 → s.valleyAway = true → s.retained = true →
          exec .sleepEntry s = .next { s with aon := { s.aon with sleep := .asleep, asleep := true } })
      ∧ ((s.aon.sleep = .asleep ∨ (s.aon.sleep = .entering ∧ s.aon.cause = 0 ∧ s.valleyAway = true ∧ s.retained = false)) →
          ∃ u, exec .sleepEntry s = .next u ∧ u = { s with aon := { s.aon with doms := u.aon.doms } }
            ∧ (s.shaped = true → ∀ d, d < s.cfg.nDoms → u.dom d = if s.domOn d = true ∧ d ≠ s.domAon
                then .changing .retain ((s.now + s.ticks 1) % 2 ^ 56) else s.dom d))
      ∧ (s.aon.sleep = .asleep → (s.seen.sleepReq = false ∨ s.aon.wakeHit = true) →
          ∃ u, exec .wake s = .next u ∧ u.aon.sleep = .waking s.now ∧ u.aon.wakeHit = false
            ∧ u.mem = s.mem ∧ u.blk.cores = s.blk.cores
            ∧ u.aon.policy = s.aon.policy ∧ (∀ h, (u.cp h).ts = (s.cp h).ts) ∧ u.aon.power.request = true
            ∧ u.aon.power.vreq = s.aon.power.vreq
            ∧ (s.shaped = true → ∀ d, d < s.cfg.nDoms → u.dom d = if s.dom d = .still .retain ∧ s.leaves d = 0
                then .changing .on (s.halvesAfter s.now 4) else s.dom d))
      ∧ (∀ t, s.aon.sleep = .waking t → s.allBack = true →
          exec .wake s = .next { s with aon := { s.aon with sleep := .awake, asleep := false } }))

/-- R320, R321, R323: AON_TIME counts every edge of the reference and wraps, and busy time counts, with saturation, while a
core runs; the time comparator fires at its alarm, once, from the tick after the write of its alarm on, and sets cause 0; a
rise of host_wake, which the block does not see under WS_INTEST (R371), sets cause 2; the ageing comparator, when neither due
nor running, sets cause 3 and asks for an automatic survey. A comparator that fires sets its cause bit, which nothing clears
in that tick, and wakes a sleeping block where its cause is enabled. -/
def Obligations.TimeAndComparators : Prop :=
  ∀ (s : State),
    let fire := fun (a : Aon) (b : BitVec 4) => { a with
      cause := a.cause ||| b, firedNow := a.firedNow ||| b
      wakeHit := a.wakeHit || (decide (a.sleep = .asleep) && decide (a.wakeEn &&& b ≠ 0)) }
    (∃ u, exec .aonTimeTick s = .next u ∧ u.aon.time.toNat = (s.aon.time.toNat + 1) % 2 ^ 56
      ∧ u.aon.busy.toNat = (if s.blk.cores.any (fun k => decide (k.run.state = .running))
          then min (s.aon.busy.toNat + 1) (2 ^ 40 - 1) else s.aon.busy.toNat)
      ∧ u.aon.firedNow = 0 ∧ u.aon.armedNow = false
      ∧ u.blk = s.blk ∧ u.hp = s.hp ∧ u.mem = s.mem ∧ u.aon.cause = s.aon.cause ∧ u.aon.doms = s.aon.doms)
    ∧ (s.aon.armed = true → s.aon.armedNow = false → s.aon.alarm.toNat ≤ s.now → exec .timeComparator s =
        .next { s with aon := fire { s.aon with armed := false } 1 })
    ∧ (s.aon.armed = false ∨ s.aon.armedNow = true ∨ s.now < s.aon.alarm.toNat → exec .timeComparator s = .next s)
    ∧ (s.intest = false → exec (.hostWake true) s = .next { s with pins := { s.pins with hostWake := true }, aon := fire s.aon 4 })
    ∧ (s.intest = true → exec (.hostWake true) s = .next { s with pins := { s.pins with hostWake := true } })
    ∧ exec (.hostWake false) s = .next { s with pins := { s.pins with hostWake := false } }
    ∧ (s.aged = true → s.aon.surveyDue = false → s.autoSurvey = false →
        ∃ u, exec .ageingComparator s = .next u ∧ u.aon.cause = s.aon.cause ||| 8 ∧ u.aon.firedNow = s.aon.firedNow ||| 8
          ∧ (u.aon.surveyDue = true ∨ ∃ v, u.blk.survey = some v ∧ v.pk = none ∧ v.round = .first ∧ v.since = s.now))
    ∧ (s.aged = false → s.aon.surveyDue = false → exec .ageingComparator s = .next s)

/-- R305, R324, R326 to R329: MARGIN_SURVEY of some cores starts a survey of them, the command processors and the Valley
network, of which a round measures the 16 groups of every domain that is ON, and of none replies MARGIN_STATUS; one that was
sent to the other command processor waits for its order to arrive there (R275); a first round that measures every group at 9.0
% or more completes the survey with its worst group in MARGIN_STATUS, replies where a packet asked for it, once the other
command processor has reported its part (R276), and else clears the ageing counters; one with a group below raises that
group's tap by the fewest steps, at its core's boundary, where TAP_CHANGE then sets it while the core is ON, or at once
outside the cores. The reply to a survey of no cores, and the margin predicted for a tap from R305, are the model's readings
(log entry 29). -/
def Obligations.SurveysMeasureAndRetap : Prop :=
  ∀ (s : State),
    (∀ p, s.Executes p 0x53 → p.ordered = false → p.coresMask = 0 →
      exec (.marginSurvey p.id) s = .next (s.complete (s.started p) .ok 0 0 s.marginWord))
    ∧ (∀ p, s.Executes p 0x53 → p.ordered = true → p.order2 = none →
        exec (.marginSurvey p.id) s = .next (s.setPkt (s.started p)))
    ∧ (∀ p, s.Executes p 0x53 → (p.ordered = false ∨ p.order2 ≠ none) → p.coresMask ≠ 0 →
        ∃ (u : State) (v : Survey), exec (.marginSurvey p.id) s = .next u ∧ u.blk.survey = some v ∧ v.pk = some p.id
          ∧ v.round = .first ∧ v.since = s.now ∧ u.blk.margin.running = true
          ∧ v.doms = p.named s ++ (s.domCp .west :: (if s.cfg.hasEast then [s.domCp .east] else [])) ++ [s.domValley]
          ∧ (∀ d g, (d, g) ∈ u.roundGroups v ↔ d ∈ v.doms ∧ s.domOn d = true ∧ g < 16)
          ∧ u.blk.cores = s.blk.cores ∧ u.mem = s.mem ∧ u.aon = s.aon ∧ u.hp = s.hp)
    ∧ (∀ ms v, s.blk.survey = some v → v.round = .first → v.latest = [] → s.past v.since 64 = true →
        s.since v.since < 2 ^ 55 →
        let got := pickGroups ms (s.roundGroups v)
        got.length = (s.roundGroups v).length → (∀ m ∈ got, retapAt ≤ s.margin m) → s.surveyFixes v = false →
        ∃ u, exec (.measurementRound ms) s = .next u ∧ u.blk.survey = none ∧ u.blk.margin.running = false
          ∧ u.blk.margin.surveys = s.blk.margin.surveys + 1 ∧ u.blk.margin.warn = v.warn ∧ u.blk.margin.fail = s.blk.margin.fail
          ∧ u.blk.margin.retaps = BitVec.ofNat 8 (min 0xFF v.retaps)
          ∧ u.blk.margin.fences = BitVec.ofNat 4 (min 0xF v.fences)
          ∧ (∀ m ∈ got, (∀ n ∈ got, s.margin m < s.margin n ∨ s.margin m = s.margin n ∧
                (m.dom < n.dom ∨ m.dom = n.dom ∧ m.grp ≤ n.grp)) →
              u.blk.margin.worst = BitVec.ofNat 8 (min 0xFF (s.margin m).toNat)
                ∧ u.blk.margin.worstDom = BitVec.ofNat 6 m.dom ∧ u.blk.margin.worstGrp = BitVec.ofNat 4 m.grp)
          ∧ u.blk.taps = s.blk.taps ∧ u.mem = s.mem
          ∧ (v.pk = none → u.blk.cores = s.blk.cores ∧ u.hp = s.hp ∧ u.blk.pkts = s.blk.pkts ∧ u.aon.busy = 0
              ∧ u.aon.surveyAt = s.aon.time ∧ u.aon.cause = s.aon.cause &&& ~~~8#4)
          ∧ (∀ p, v.pk = some p.id → s.pkt? p.id = some p → p.opcode = 0x53 → p.reported = true →
              s.Replied u p .ok 0 0 u.marginWord ∧ s.GoOn u p.id (p.todo ++ p.acted) ∧ u.aon = s.aon))
    ∧ (∀ ms v m, s.blk.survey = some v → v.round = .first → s.past v.since 64 = true → s.since v.since < 2 ^ 55 →
        v.doms.Nodup →
        (pickGroups ms (s.roundGroups v)).length = (s.roundGroups v).length →
        m ∈ pickGroups ms (s.roundGroups v) → s.margin m < retapAt → s.tapOf m.dom m.grp < 15 →
        ∃ (u : State) (w : Survey), exec (.measurementRound ms) s = .next u ∧ u.blk.survey = some w
          ∧ w.round = .retap ∧ w.since = s.now ∧ (m.dom, m.grp) ∈ w.retapped ∧ w.retaps = w.retapped.length
          ∧ (m.dom < s.cfg.nCores →
              Tab.get 0 u.blk.taps (16 * m.dom + m.grp) = Tab.get 0 s.blk.taps (16 * m.dom + m.grp)
              ∧ (∀ k, s.shaped = true → u.core? m.dom = some k → k.rep.tapPending = true)
              ∧ u.blk.tapsDue.find? (fun e => e.1 == 16 * m.dom + m.grp) =
                  some (16 * m.dom + m.grp, BitVec.ofNat 4 (s.raisedTap m)))
          ∧ (s.cfg.nCores ≤ m.dom →
              Tab.get 0 u.blk.taps (16 * m.dom + m.grp) = BitVec.ofNat 4 (s.raisedTap m)))
    ∧ (∀ m : Measure,
        let good := fun t => retapAt ≤ rawMargin (m.np * (32 + t)) (m.nm * (32 + s.tapOf m.dom m.grp))
          - s.correction m.dom m.grp
        let t := s.raisedTap m
        (s.tapOf m.dom m.grp < t ∧ t < 16 ∧ good t ∧ ∀ w, s.tapOf m.dom m.grp < w → w < t → ¬good w)
          ∨ (t = 15 ∧ ∀ w, s.tapOf m.dom m.grp < w → w < 16 → ¬good w))
    ∧ (∀ c k key t, s.Has c k → s.domOn c = true → k.repairable = true → k.rep.stopped = [] → s.blk.tapsDue = [(key, t)] → key / 16 = c →
        ∃ u, exec (.tapChange c) s = .next u ∧ u.blk.taps = Tab.set 0 s.blk.taps key t ∧ u.blk.tapsDue = []
          ∧ u.core? c = some { k with rep := { k.rep with tapPending := false, tapBeats := 16 } }
          ∧ (∀ d, d ≠ c → u.core? d = s.core? d) ∧ u.mem = s.mem ∧ u.aon = s.aon)

/-- R342, R346, R347, R359, R364: FUSE_PROG_CTL written with go before SEAL, while no operation runs, asks for the
programming supply and, for a reload in phase OPEN, leaves for FUSE_READ, where a clamp of hold keeps what the outputs last
drove (R362); vpp_ack, which the block does not see under WS_INTEST (R371), starts the burn, which after 200 µs
changes the slot named and no other, and of a slot that it voids only the void bit, and its fall ends the operation with its
result; a reload rebuilds the maps, where a unit that is fenced stays so, and is OPEN again, when the accesses that the host
holds transfer; AON_REPAIR_CTL with clear empties the repair log. In which phases an operation is accepted is the model's
reading (log entry 30); that a reload keeps the fence of an engine too, and that the maps of a core become those of the fuses
alone, is the model's choice (log entry 27), R342 speaking of a core; what a burnt slot reads is a free value. -/
def Obligations.FuseOperationsComplete : Prop :=
  ∀ (s : State) (w : Word),
    (s.bootAccepts 0xFF = true → s.aon.fuses.state = .idle → bitOf w 63 = true →
      (s.aon.phase = .init ∨ s.aon.phase = .ready ∨ s.aon.phase = .opened) →
      (fld w 9 8 = 0 → exec (.fuseProgram w 0xFF) s = .next (s.modFuses fun f => { f with
        op := 0, slot := BitVec.ofNat 8 (fld w 7 0), state := .waitHigh false, vppReq := true }))
      ∧ (fld w 9 8 = 1 → exec (.fuseVoid w 0xFF) s = .next (s.modFuses fun f => { f with
        op := 1, slot := BitVec.ofNat 8 (fld w 7 0), state := .waitHigh true, vppReq := true }))
      ∧ (fld w 9 8 = 2 → s.aon.phase = .opened → exec (.fuseReload w 0xFF) s = .next { s.keepHeld with aon := { s.keepHeld.aon with
        phase := .fuseRead
        fuses := { s.aon.fuses with op := 2, slot := BitVec.ofNat 8 (fld w 7 0), state := .reload } } }))
    ∧ (∀ level, s.intest = true →
      exec (.vppAck level) s = .next { s with pins := { s.pins with vppAck := level } })
    ∧ (∀ void, s.intest = false → s.aon.fuses.state = .waitHigh void → exec (.vppAck true) s = .next { s with
        pins := { s.pins with vppAck := true }
        aon := { s.aon with fuses := { s.aon.fuses with state := .burning void s.now } } })
    ∧ (∀ r, s.intest = false → s.aon.fuses.state = .waitLow r → exec (.vppAck false) s = .next { s with
        pins := { s.pins with vppAck := false }
        aon := { s.aon with fuses := { s.aon.fuses with state := .idle, result := r } } })
    ∧ (∀ void since, s.aon.fuses.state = .burning void since → s.past since 200 = true →
      ∃ u, exec .fuseBurnTimer s = .next u ∧ u.aon.fuses.vppReq = false ∧ (∃ r, u.aon.fuses.state = .waitLow r)
        ∧ (∀ i, i ≠ 1024 + s.aon.fuses.slot.toNat → Tab.get 0 u.aon.fuses.recs i = Tab.get 0 s.aon.fuses.recs i)
        ∧ (void = false → s.aon.fuses.slotRec ≠ 0 → u.aon.fuses.recs = s.aon.fuses.recs ∧ u.aon.fuses.state = .waitLow 2)
        ∧ (void = true → s.aon.fuses.slotRec = 0 → u.aon.fuses.recs = s.aon.fuses.recs ∧ u.aon.fuses.state = .waitLow 3)
        ∧ (void = true → u.aon.fuses.slotRec &&& ~~~(1 <<< 59 : Word) = s.aon.fuses.slotRec &&& ~~~(1 <<< 59 : Word))
        ∧ (Tab.wf 0 s.aon.fuses.recs = true → u.aon.fuses.state = .waitLow 0 → u.aon.fuses.slotRec =
            if void then s.aon.fuses.slotRec ||| (1 <<< 59 : Word) else s.aon.fuses.prog)
        ∧ u.blk = s.blk ∧ u.mem = s.mem ∧ u.hp = s.hp)
    ∧ (s.aon.phase = .fuseRead → s.aon.fuses.state = .reload →
      let r := s.readFuses
      let u := { r with aon := { r.aon with
        phase := .opened, fuses := { r.aon.fuses with state := .idle, result := 0 } } }
      exec .fuseReloadComplete s = .next u.openPorts
        ∧ ((∀ h ∈ s.hp, h.stall = []) → exec .fuseReloadComplete s = .next u)
        ∧ u.aon.fuses.recs = s.aon.fuses.recs ∧ u.aon.caps0 = s.cfg.caps0 ∧ u.aon.caps1 = s.cfg.caps1
        ∧ u.aon.listA = (List.range s.cfg.nPorts).filter (fun q => !(s.fusedPorts 0).contains q)
        ∧ u.aon.withdrawn = s.fusedPorts 1024
        ∧ ∀ c k, s.core? c = some k → u.core? c = some { k with rep := { k.rep with
              rowsEx := (s.fusedMaps c).rowsEx, colsEx := (s.fusedMaps c).colsEx, epochs := (s.fusedMaps c).epochs
              planeSpare := (s.fusedMaps c).planeSpare, lineSpare := (s.fusedMaps c).lineSpare
              fenced := (s.fusedMaps c).fenced ||| k.rep.fenced
              coreFenced := (s.fusedMaps c).coreFenced || k.rep.coreFenced } })
    ∧ (s.bootAccepts 0xFF = true → bitOf w 63 = true → exec (.repairLogClear w 0xFF) s =
        .next (s.modFuses fun f => { f with log := [], overflow := false }))

/-- R286, R287, R321, R360, R362, R373: power-on of the always-on domain brings the whole block to its reset state, with the
fuses, but for a slot that a reset stops half burnt (R361), the memory behind the ports and the pins as they are; the fall of
blk_rst_n resets every other domain and clears the
seal, the policy, the lead state and the alarm, keeping AON_TIME, AON_AGE and AON_SURVEY_AT, with the host and memory ports'
outputs at their strap levels (R363), where a clamp of hold keeps what they last drove; its rise starts the fuse read, or
with a test instruction loaded locks the phase; a command processor's reset takes its role and all its state but the steps
and the live halves of its tenants, and its end brings it back in 4 µs, but while blk_rst_n is low only its pin changes, for that
reset governs (R361); a host port's reset discards its assembly and its
interrupt state. That blk_rst_n keeps the host-port registers and returns their credits, and the role of a command processor
in reset, are the model's readings (log entries 10, 22). -/
def Obligations.ResetsAct : Prop :=
  ∀ (s : State),
    (∃ u, exec .aonPor s = .next u ∧ u.blk = .reset s.cfg ∧ u.hp = List.replicate 8 .reset ∧ u.mem = s.mem
      ∧ u.pins = s.pins ∧ u.aon.sealed = false ∧ u.aon.time = 0 ∧ u.aon.busy = 0 ∧ u.aon.refKhz = 0x2710
      ∧ u.aon.wakeEn = 0xF ∧ u.aon.therm = 0x2A4 ∧ u.aon.fuses.log = [] ∧ u.aon.policy = List.replicate 113 0
      ∧ u.aon.wrap = Wrapper.reset ∧ u.aon.held = s.keepHeld.aon.held
      ∧ ((∀ void since, s.aon.fuses.state ≠ .burning void since) → u.aon.fuses.recs = s.aon.fuses.recs)
      ∧ (∀ i, i ≠ 1024 + s.aon.fuses.slot.toNat → Tab.get 0 u.aon.fuses.recs i = Tab.get 0 s.aon.fuses.recs i))
    ∧ (∃ u, exec (.blkRst true) s = .next u ∧ u.blk = .reset s.cfg ∧ u.mem = s.mem
      ∧ u.hp = s.hp.map (fun h => { h with credits := if h.asm.isEmpty then 16 else 15, cpHalf := .west, stall := [] })
      ∧ (∀ g, g = .hostStrobes ∨ g = .hostData ∨ (∃ n, g = .memStrobes n ∨ g = .memData n) →
          u.edgeLevel g = if s.aon.wrap.wir = .extest then .boundary else s.strapLevel g)
      ∧ u.aon.held = s.keepHeld.aon.held
      ∧ (s.edgeLevel .hostStrobes = .driven → u.aon.held.irq = s.hp.map HostPort.line)
      ∧ (s.edgeLevel .hostStrobes ≠ .driven → u.aon.held.irq = s.aon.held.irq)
      ∧ u.aon.phase = .reset ∧ u.aon.sealed = false ∧ u.aon.policyCrc = 0 ∧ u.aon.policy = List.replicate 113 0
      ∧ u.aon.epochW = 0 ∧ u.aon.epochE = 0 ∧ u.aon.roleW = .off ∧ u.aon.roleE = .off
      ∧ u.aon.armed = false ∧ u.aon.alarm = 0 ∧ u.aon.wakeEn = 0xF
      ∧ u.aon.time = s.aon.time ∧ u.aon.busy = s.aon.busy ∧ u.aon.surveyAt = s.aon.surveyAt
      ∧ u.aon.fuses.log = s.aon.fuses.log ∧ u.aon.fuses.overflow = s.aon.fuses.overflow
      ∧ ((∀ void since, s.aon.fuses.state ≠ .burning void since) → u.aon.fuses.recs = s.aon.fuses.recs)
      ∧ (∀ i, i ≠ 1024 + s.aon.fuses.slot.toNat → Tab.get 0 u.aon.fuses.recs i = Tab.get 0 s.aon.fuses.recs i))
    ∧ (s.pins.blkRstLow = true → exec (.blkRst false) s = .next { s with
        pins := { s.pins with blkRstLow := false }, blk := .reset s.cfg
        aon := { s.aon with phase := if s.aon.wrap.wir.refused then .scanLock else .fuseRead } })
    ∧ (s.pins.blkRstLow = false → exec (.blkRst false) s = .next s)
    ∧ (∀ h low, s.hasCp h = true → s.pins.blkRstLow = true → exec (.cpReset h low) s = .next { s with
        pins := { s.pins with
          cpwLow := if h = .west then low else s.pins.cpwLow, cpeLow := if h = .east then low else s.pins.cpeLow } })
    ∧ (∀ h, s.hasCp h = true → s.pins.blkRstLow = false → ∃ u, exec (.cpReset h true) s = .next u
        ∧ (s.aon.sealed = true → u.role h = .off) ∧ (s.aon.sealed = false → u.role h = s.role h)
        ∧ (h = .west → u.pins.cpwLow = true) ∧ (h = .east → u.pins.cpeLow = true)
        ∧ (s.shaped = true → u.dom (s.domCp h) = .still .off ∧ ∀ d, d ≠ s.domCp h → u.dom d = s.dom d)
        ∧ u.cp h = { Cp.reset s.cfg with
            ts := { TState.reset s.cfg with tens := (s.cp h).ts.tens.map fun y => { Tenant.reset with
              stepOpen := y.stepOpen, stepId := y.stepId, poison := y.poison, live := y.live } }
            current := !(s.aon.sealed && s.cfg.hasEast) }
        ∧ u.cp h.other = s.cp h.other
        ∧ u.blk.cores = s.blk.cores ∧ u.aon.policy = s.aon.policy ∧ u.mem = s.mem)
    ∧ (∀ h, s.hasCp h = true → s.pins.blkRstLow = false → s.dom (s.domCp h) = .still .off → ∃ u, exec (.cpReset h false) s = .next u
        ∧ (h = .west → u.pins.cpwLow = false) ∧ (h = .east → u.pins.cpeLow = false)
        ∧ (s.shaped = true → u.dom (s.domCp h) = .changing .on ((s.now + s.ticks 4) % 2 ^ 56))
        ∧ u.blk = s.blk ∧ u.hp = s.hp ∧ u.mem = s.mem)
    ∧ (∀ p h, p < 8 → s.hp[p]? = some h → ∃ u, exec (.hpRst p) s = .next u
        ∧ u.hp[p]? = some { h with
            irq := 0, mask := 0, asm := [], asmLen := if h.asm.isEmpty then h.asmLen else 0
            credits := if h.asm.isEmpty then h.credits else h.credits + 1 }
        ∧ (∀ q, q ≠ p → u.hp[q]? = s.hp[q]?) ∧ u.blk = s.blk ∧ u.aon = s.aon ∧ u.mem = s.mem)

/-- R358, R362, R365: FUSE_READ samples the straps, builds CAPS0, CAPS1, list A and every core's maps and enters INIT; INIT
turns every domain ON, zeroes every store, clears every slot record and sets the taps of the plan; PHASE_OPEN opens the
ports, where the accesses that the host holds transfer (R364); a core supply that leaves its range leaves every domain but
the always-on domain in a free state of the built form. The taps of the plan and the state after the supply leaves its range
are free values (log entries 5, 12). -/
def Obligations.BootPhasesComplete : Prop :=
  ∀ (s : State),
    (s.aon.phase = .fuseRead → s.aon.fuses.state ≠ .reload → s.pins.blkRstLow = false →
      ∃ u, exec .fuseRead s = .next u ∧ u.aon.phase = .init ∧ u.aon.clamps = s.pins.clamps
        ∧ u.aon.bootPort = s.pins.bootPort ∧ u.aon.strapErr = strapBad s.pins.clamps
        ∧ u.aon.caps0 = s.cfg.caps0 ∧ u.aon.caps1 = s.cfg.caps1
        ∧ u.aon.listA = (List.range s.cfg.nPorts).filter (fun q => !(s.fusedPorts 0).contains q)
        ∧ (∀ c k, s.core? c = some k → u.core? c = some { k with rep := k.rep.rebuilt (s.fusedMaps c) })
        ∧ u.aon.fuses.recs = s.aon.fuses.recs ∧ u.hp = s.hp)
    ∧ (s.aon.phase = .init → s.pins.cpwLow = false → s.pins.cpeLow = false →
      ∃ u, exec .init s = .next u ∧ u.aon.phase = .ready ∧ u.aon.doms = List.replicate s.cfg.nDoms (.still .on)
        ∧ u.blk.taps = s.planTaps ∧ u.mem = s.mem ∧ u.hp = s.hp
        ∧ ∀ c k, s.core? c = some k → u.core? c = some { k with
            store := [], bad := [], plain := { k.plain with recs := [] } })
    ∧ (s.aon.phase = .ready →
        let u := { s with aon := { s.aon with phase := .opened } }
        exec .phaseOpen s = .next u.openPorts ∧ ((∀ h ∈ s.hp, h.stall = []) → exec .phaseOpen s = .next u))
    ∧ (s.pins.blkRstLow = false → exec .vddCoreOutOfRange s = .next { s with
        blk := (Config.undefinedBlk s.free).formed s.cfg, free := s.free + 1 })

/-- R371 to R374: before SEAL every wrapper instruction is loaded, and those that reach inside lock the phase: every output
group but the test group goes to its strap level, or under WS_EXTEST is driven by the boundary register (R362); from SEALED
on the refused ones load WS_BYPASS instead and set test_refused, no domain changes, and one that stands shifts, captures and
updates nothing. wrstn brings the wrapper to WS_BYPASS; a reserved code acts as WS_BYPASS, under which a shift passes the
bypass bit; under WS_EXTEST a capture takes the inputs, a shift passes the boundary register and an update drives it; a scan
shift moves every chain by one stage and leaves the arrays; the fuse map, and the sensor codes before the replica counts of the
last survey, are read bit by bit. Under WS_INTEST the boundary register drives the inputs that the block sees: among them the fatal
signals of the memory ports, whose rise withdraws a port, and their read data and write completions (R355, R356). As an instruction
that drives the parallel outputs is left, a clamp of hold keeps what they last drove (R362, R363). The domains
under internal scan hold a free value (log entry 12). The length of the boundary register and the places of its cells, that an
update drives a port for one cycle, that records are shifted out from their least significant bit, and how a reserved code is loaded
are the model's choices (log entry 26). -/
def Obligations.WrapperInstructionsLoad : Prop :=
  ∀ (s : State),
    let v := if s.edgeLevel .testParallel = .driven then s.keepHeld else s
    let load : Wir → Wrapper := fun w => { s.aon.wrap with wir := w, pos := 0, chain := [], base := v.free }
    let idle : Wir → State := fun w => { v with aon := { v.aon with wrap := load w } }
    let refuse : State := { v with aon := { v.aon with
      wrap := { s.aon.wrap with wir := .bypass, pos := 0 }, testRefused := true } }
    let see : State → State := fun u => if s.intest then u.seeInputs s.seen else u
    (s.edgeLevel .testParallel = .driven → v.aon.held.wpo = s.aon.wrap.wpo)
    ∧ exec .wsBypass s = .next (see (idle .bypass)) ∧ (∀ c, exec (.wrapperShift (.reserved c)) s = .next (see (idle (.reserved c))))
    ∧ exec .wsFuseRd s = .next (see (idle .fuseRd)) ∧ exec .wsSensor s = .next (see (idle .sensor))
    ∧ (s.aon.sealed = true → exec .wsExtest s = .next refuse ∧ exec .wsIntest s = .next refuse
        ∧ exec .wsScan s = .next refuse ∧ exec .wsMbist s = .next refuse)
    ∧ (s.aon.sealed = false →
        let k := v.keepHeld
        let lock : Wir → State := fun w => { k with aon := { k.aon with
          wrap := { s.aon.wrap with wir := w, pos := 0, chain := [], base := k.free }
          phase := .scanLock, sleep := .awake, asleep := false, wakeHit := false } }
        let inside := (lock .intest).undefineStages.seeInputs s.seen
        exec .wsExtest s = .next (see (lock .extest)) ∧ exec .wsIntest s = .next inside
        ∧ exec .wsScan s = .next (see (lock .scan).undefineStages) ∧ exec .wsMbist s = .next (see (lock .mbist).undefine)
        ∧ ∀ g, g ≠ .testSerial → g ≠ .testParallel → (see (lock .extest)).edgeLevel g = .boundary
          ∧ inside.edgeLevel g = s.strapLevel g ∧ (see (lock .scan).undefineStages).edgeLevel g = s.strapLevel g
          ∧ (see (lock .mbist).undefine).edgeLevel g = s.strapLevel g)
    ∧ exec .wrstn s = .next (see { v with aon := { v.aon with wrap := Wrapper.reset } })
    ∧ (s.aon.wrap.wir = .intest → s.aon.sealed = false → s.aon.sleep ≠ .entering →
        let cell := fun (i : Nat) => s.aon.wrap.wbr.getD i false
        let port := fun q i => cell (s.cfg.memPortCell q + i)
        ∃ u, exec (.wrapperShift .update) s = .next ((List.range s.cfg.nPorts).foldl State.portCycle u)
          ∧ ((∀ q, q < s.cfg.nPorts → port q 4913 = false ∧ ∀ j, j < 4 → port q (13142 + j) = false) →
              exec (.wrapperShift .update) s = .next u)
          ∧ (∀ q, q < s.cfg.nPorts → port q 13146 = true → s.seen.memFatal.getD q false = false →
              s.domOn (s.domGroup (q / 5)) = true → q ∈ s.aon.listA → q ∈ u.aon.withdrawn)
          ∧ u.aon.wrap.driven = s.aon.wrap.wbr ∧ u.pins = s.pins
          ∧ u.seen.vppAck = cell s.cfg.vppAckCell ∧ u.seen.sleepReq = cell s.cfg.sleepReqCell
          ∧ u.seen.hostWake = cell s.cfg.hostWakeCell
          ∧ (∀ g, g < s.cfg.nGroups → u.seen.memSleepAck.getD g false = cell (s.cfg.memAckCell g))
          ∧ (cell s.cfg.vcoreAckCell = true → u.aon.power.request = false)
          ∧ (s.seen.hostWake = false → u.seen.hostWake = true → u.aon.cause = s.aon.cause ||| 4)
          ∧ (∀ void, s.aon.fuses.state = .waitHigh void → s.seen.vppAck = false → u.seen.vppAck = true →
              u.aon.fuses.state = .burning void s.now)
          ∧ (s.aon.sleep = .asleep → s.seen.sleepReq = true → u.seen.sleepReq = false → u.aon.wakeHit = true)
          ∧ ((∀ q, q < s.cfg.nPorts → port q 13146 = true → s.seen.memFatal.getD q false = true) →
              u.aon.withdrawn = s.aon.withdrawn ∧ u.mem = s.mem ∧ u.blk.cores = s.blk.cores ∧ u.hp = s.hp))
    ∧ (s.aon.sealed = true → s.aon.wrap.wir.refused = true →
        exec .capturePulse s = .next s ∧ exec (.wrapperShift .update) s = .next s
        ∧ ∀ b p, exec (.wrapperShift (.shift b p)) s = .next s)
    ∧ ((s.aon.wrap.wir = .bypass ∨ ∃ c, s.aon.wrap.wir = .reserved c) → exec .capturePulse s = .next s
        ∧ ∀ b p, exec (.wrapperShift (.shift b p)) s =
          .next { s with aon := { s.aon with wrap := { s.aon.wrap with wby := b, wso := s.aon.wrap.wby } } })
    ∧ (s.aon.wrap.wir = .extest → s.aon.sealed = false →
        (∃ u, exec .capturePulse s = .next u ∧ u.aon.wrap.wbr.length = s.cfg.wbrLen
          ∧ u.aon.wrap.wbr[s.cfg.wbrBase + 10]? = some s.pins.vppAck
          ∧ u.aon.wrap.wbr[s.cfg.wbrBase + 11]? = some s.pins.sleepReq
          ∧ u.aon.wrap.wbr[s.cfg.wbrBase + 13]? = some s.pins.hostWake
          ∧ (∀ g, g < s.cfg.nGroups → u.aon.wrap.wbr[s.cfg.memAckCell g]? = some (s.pins.memSleepAck.getD g false))
          ∧ u.blk = s.blk ∧ u.mem = s.mem)
        ∧ (∀ b p, exec (.wrapperShift (.shift b p)) s = .next { s with aon := { s.aon with wrap := { s.aon.wrap with
            wbr := b :: s.aon.wrap.wbr.take (s.cfg.wbrLen - 1), wso := s.aon.wrap.wbr.getD (s.cfg.wbrLen - 1) false } } })
        ∧ exec (.wrapperShift .update) s =
          .next { s with aon := { s.aon with wrap := { s.aon.wrap with driven := s.aon.wrap.wbr } } })
    ∧ (∀ b p, s.aon.wrap.wir = .scan → s.aon.sealed = false → s.shaped = true →
        ∃ u, exec (.wrapperShift (.shift b p)) s = .next u
          ∧ u.aon.wrap.chain = (p :: s.aon.wrap.chain).take (Config.chainLen + 1)
          ∧ (Config.chainLen < s.aon.wrap.chain.length → u.aon.wrap.wpo = s.aon.wrap.chain.getD Config.chainLen 0)
          ∧ (∀ c k, s.core? c = some k → ∃ k', u.core? c = some k' ∧ k'.store = k.store ∧ k'.bad = k.bad
              ∧ k'.plain.plane = k.plain.plane ∧ k'.plain.par = k.plain.par ∧ k'.img = k.img)
          ∧ u.mem = s.mem)
    ∧ (∀ b p, s.aon.wrap.wir = .fuseRd → s.aon.wrap.pos < 64 * 1280 →
        exec (.wrapperShift (.shift b p)) s = .next { s with aon := { s.aon with wrap := { s.aon.wrap with
          pos := s.aon.wrap.pos + 1
          wso := (Tab.get 0 s.aon.fuses.recs (s.aon.wrap.pos / 64)).toNat.testBit (s.aon.wrap.pos % 64) } } })
    ∧ (∀ b p, s.aon.wrap.wir = .sensor →
        exec (.wrapperShift (.shift b p)) s = .next { s with aon := { s.aon with wrap := { s.aon.wrap with
          pos := s.aon.wrap.pos + 1
          wso := if s.aon.wrap.pos < 640 then (s.aon.sensors.getD (s.aon.wrap.pos / 10) 0).testBit (s.aon.wrap.pos % 10)
            else (Config.replicaBits s.blk.counts).getD (s.aon.wrap.pos - 640) false } } })

/-! ### Faults and repair -/

/-- R90, R119, R121, R333, R341, R377: the detection of a fault in a pass that is no recurrent one stops it: its place is
recorded, it multiplies no more, the accumulating slots it adds into become DIRTY and the pass waits for its replay, beside
others that wait; a recurrent one marks its place as a defect, and every pass on that engine stops for good (R334), where what
its checks have seen reaches the step-poison bits (R165). A page whose parity is bad does the same for a Plain pass that reads
it, is counted, and its bad slots are re-filled from their records; where such a record's source cannot be read, the pass
leaves and its program ends with FAULT_FENCED (R336); one whose parity matches stops nothing. FAULT_REPLAY of a stopped pass
re-executes its tags, or its row set, from their origins and marks the run; one that waits for its plane row to be steered
waits on. Nothing else outside the core changes. R85, R179, R332, R333, R336, R377: a fault in the epilogue of a drain that
computes restarts it from its recorded state, which counts as a replay; a Basin accumulator that fails a second time is
uncorrectable data, which stops the drain and ends its program with FAULT_FENCED; a place that recurs stops the drain for its
repair; a fault on the path of a REFILL leaves its slot DIRTY and the REFILL waiting for its replay, and one on the path of a
SPILL restarts it. That a restarted drain or SPILL counts as a replay of its instruction, that a SPILL's restart does not mark
the run, and that a re-fill takes no time, are the model's readings (log entry 29); what a replay adds whose inputs have
changed since is free (log entry 8). -/
def Obligations.FaultsStopPassesAndDrains : Prop :=
  (∀ (s : State) (c f idx : Nat) (k : Core), s.Has c k →
      let halt := fun (g : Flight) => if g.id = f then g.withBeats 0 else g
      (∀ es ts w b p pl, k.flight? f = some ⟨f, idx, .colPass es ts w b p⟩ → k.isStopped f = false →
        k.rep.coreFenced = false → s.recurrent k pl idx = false → (∀ i ∈ k.passSlots es ts, i < k.slots.length) →
        ∃ k', exec (.passFault c f pl) s = .next (s.setCore c k')
          ∧ k'.rep = { k.rep with
              lastDet := some (pl, s.now), stopped := k.rep.stopped ++ [(f, some pl)]
              replaying := k.rep.replaying.filter (·.1 != f) }
          ∧ (∀ i, k'.slot i = if i ∈ k.passSlots es ts ∧ (k.slot i).st = .acc then { k.slot i with st := .dirty } else k.slot i)
          ∧ k'.flight = k.flight.map halt ∧ k'.run = k.run ∧ k'.store = k.store ∧ k'.plain = k.plain ∧ k'.gen = k.gen
          ∧ k'.banks = k.banks)
      ∧ (∀ es ts w b p pl, k.flight? f = some ⟨f, idx, .colPass es ts w b p⟩ → k.isStopped f = false →
        k.rep.coreFenced = false → s.recurrent k pl idx = true → k.fixFences (.place pl) = false → k.steers pl = false →
        ∃ (u : State) (k' : Core), exec (.passFault c f pl) s = .next u ∧ u.core? c = some k'
          ∧ (∀ d, d ≠ c → u.core? d = s.core? d) ∧ u.mem = s.mem ∧ u.aon = s.aon ∧ u.hp = s.hp
          ∧ (p = true → (k.slotRecs f).any (·.changed) = false → s.role (s.servedBy c) = .lead →
              k.run.tenant < s.auth.tens.length → (u.auth.ten k.run.tenant).poison = true)
          ∧ k'.rep.lastDet = some (pl, s.now) ∧ k'.rep.defect = k.rep.defect ++ [(.place pl, idx)]
          ∧ k'.flight = k.flight.filter (fun g => decide (g.id ≠ f) && !k.passOn (engOf pl) g)
          ∧ (∀ i, i < k.slots.length → (i ∈ k.passSlots es ts ∨ ∃ g es' ts' w' b' p', g ∈ k.flight ∧ k.passOn (engOf pl) g = true
              ∧ g.work = .colPass es' ts' w' b' p' ∧ i ∈ k.passSlots es' ts') → (k'.slot i).st ≠ .acc)
          ∧ k'.run = k.run ∧ k'.store = k.store ∧ k'.plain.plane = k.plain.plane ∧ k'.gen = k.gen ∧ k'.banks = k.banks)
      ∧ (∀ up row tree cls page b p bad prow x, k.flight? f = some ⟨f, idx, .plainPass row tree cls page b p bad⟩ →
        k.isStopped f = false → k.rep.coreFenced = false → k.rowSet? tree row = some x →
        let k1 := k.upset up
        let wrong := bad = true ∨ (0 < b ∧ k1.plain.pageBad cls page = true)
        let recs := k.plain.recs.filter fun e => ((pageSlots cls page).filter k1.plain.parityBad).contains e.1
        (¬wrong → exec (.planeParityFault c f up prow) s = .next (s.setCore c k1))
        ∧ (wrong → s.refillLost k1 recs = false → s.recurrent k (.planeRow prow) idx = false →
          ∃ k', exec (.planeParityFault c f up prow) s = .next (s.setCore c k')
            ∧ k'.rep = { k.rep with
                lastDet := some (.planeRow prow, s.now), stopped := k.rep.stopped ++ [(f, some (.planeRow prow))]
                replaying := k.rep.replaying.filter (·.1 != f) }
            ∧ k'.planePar = bump16 k.planePar ∧ k'.rowSet? tree row = some { x with dirty := true }
            ∧ k'.plain.plane = (s.refillFrom k1 recs).plain.plane ∧ k'.plain.par = (s.refillFrom k1 recs).plain.par
            ∧ k'.plain.recs = k.plain.recs ∧ k'.plain.colAcc = k.plain.colAcc ∧ k'.plain.treeAcc = k.plain.treeAcc
            ∧ k'.flight = (k.setFlight ⟨f, idx, .plainPass row tree cls page b p false⟩).flight.map halt
            ∧ k'.run = k.run ∧ k'.store = k.store ∧ k'.gen = k.gen)
        ∧ (wrong → s.refillLost k1 recs = true →
          ∃ (u : State) (k' : Core), exec (.planeParityFault c f up prow) s = .next u ∧ u.core? c = some k'
            ∧ k'.run.ending = some (k.run.ending.getD (BitVec.ofNat 8 Status.faultFenced.code, idx)) ∧ k'.flight? f = none
            ∧ k'.planePar = bump16 k.planePar ∧ k'.rowSet? tree row = some { x with dirty := true }
            ∧ k'.plain.plane = k1.plain.plane ∧ k'.plain.recs = k.plain.recs ∧ k'.store = k.store ∧ k'.gen = k.gen
            ∧ (∀ d, d ≠ c → u.core? d = s.core? d) ∧ u.mem = s.mem ∧ u.aon = s.aon ∧ u.hp = s.hp))
      ∧ (∀ pl, k.rep.stopped = [(f, pl)] → k.awaitsSteer (f, pl) = true → exec (.faultReplay c) s = .next s)
      ∧ (∀ pl, k.rep.stopped = [(f, pl)] → k.awaitsSteer (f, pl) = false →
        let k0 : Core := { k with rep := { k.rep with stopped := [] } }
        let done := fun (r : Core) (w : Work) => Host.Outcome.next { s.setCore c { r.setFlight ⟨f, idx, k0.replayBeats w⟩ with
          run := { r.run with fault := true }
          rep := { r.rep with replaying := r.rep.replaying ++ [(f, pl)], replays := idx :: r.rep.replays } } with
            free := s.free + 4 * slotFree }
        (∀ es ts w b p, k.flight? f = some ⟨f, idx, .colPass es ts w b p⟩ →
          exec (.faultReplay c) s = done ((k.passSlots es ts).foldl (Core.replaySlot c s.free) k0) (.colPass es ts w b p))
        ∧ (∀ row tree cls page b p bad x, k.flight? f = some ⟨f, idx, .plainPass row tree cls page b p bad⟩ →
          k.rowSet? tree row = some x → (∀ l, s.refillLost k l = false) →
          exec (.faultReplay c) s = done ((s.setCore c k0).replayRows c k0 x) (.plainPass row tree cls page b p bad))))
  ∧ (∀ (s : State) (c f idx : Nat) (k : Core), s.Has c k →
      let marked := fun (x : Core) (pl : Place) =>
        let y := x.stopFor (.place pl)
        { y with rep := { y.rep with defect := k.rep.defect ++ [(.place pl, idx)] } }
      let mark := fun (x : Core) (pl : Place) => (s.leavePoison c x (x.flight.filter fun g =>
        ((x.stopFor (.place pl)).flight? g.id).isNone)).setCore c (marked x pl)
      (∀ d pl, k.flight? f = some ⟨f, idx, .drain d⟩ → (d.ph = .taking ∨ d.ph = .held) → d.stuck = false →
        k.rep.coreFenced = false →
        let basin := ∃ e q n, pl = Place.basin e q n
        let k1 : Core := { k with rep := { k.rep with lastDet := some (pl, s.now) } }
        let stuck : Core := k1.setFlight ⟨f, idx, .drain { d with stuck := true }⟩
        (s.recurrent k pl idx = false → (basin → pl ∉ d.restarts) →
          exec (.epilogueFault c f pl) s = .next (s.setCore c
            { k1.setFlight ⟨f, idx, .drain { d with restarts := d.restarts ++ [pl], replayed := true }⟩ with
              rep := { k1.rep with replays := idx :: k.rep.replays } }))
        ∧ (s.recurrent k pl idx = false → basin → pl ∈ d.restarts →
          exec (.epilogueFault c f pl) s = .next (s.setCore c (stuck.endWith .faultFenced idx)))
        ∧ (s.recurrent k pl idx = true → stuck.fixFences (.place pl) = false → (basin → pl ∉ d.restarts) →
          exec (.epilogueFault c f pl) s = .next (mark stuck pl))
        ∧ (s.recurrent k pl idx = true → stuck.fixFences (.place pl) = false → basin → pl ∈ d.restarts →
          exec (.epilogueFault c f pl) s = .next (mark (stuck.endWith .faultFenced idx) pl)))
      ∧ (∀ e i r t a pl, k.flight? f = some ⟨f, idx, .refill e i r t a⟩ → k.isStopped f = false → k.rep.coreFenced = false →
        s.recurrent k pl idx = false → i < k.slots.length → (k.slot i).st = .acc →
        ∃ k', exec (.spillPathFault c ⟨f, pl⟩) s = .next (s.setCore c k')
          ∧ k'.rep = { k.rep with
              lastDet := some (pl, s.now), stopped := k.rep.stopped ++ [(f, some pl)]
              replaying := k.rep.replaying.filter (·.1 != f) }
          ∧ k'.slot i = { k.slot i with st := .dirty } ∧ (∀ j, j ≠ i → k'.slot j = k.slot j)
          ∧ k'.flight = k.flight.map (fun g => if g.id = f then g.withBeats 0 else g)
          ∧ k'.store = k.store ∧ k'.run = k.run ∧ k'.gen = k.gen)
      ∧ (∀ e i b r pl, k.flight? f = some ⟨f, idx, .spill e i b r⟩ → k.rep.coreFenced = false →
        let k1 : Core := { k with rep := { k.rep with lastDet := some (pl, s.now) } }
        (s.recurrent k pl idx = false → exec (.spillPathFault c ⟨f, pl⟩) s = .next (s.setCore c { k with rep := { k.rep with
          lastDet := some (pl, s.now), replays := idx :: k.rep.replays } }))
        ∧ (s.recurrent k pl idx = true → k.fixFences (.place pl) = false →
          exec (.spillPathFault c ⟨f, pl⟩) s = .next (mark k1 pl))))

/-- R95, R334, R335, R341, R343: at its boundary a core that is ON excludes the physical column of a defective lane while its
engine has a spare one, or the row where there is none or where the row parity found the lane and a spare row is left; it ends its
program, its accumulating tiles there are DIRTY, and a record is logged. With both spares used up it fences the engine, and so
does a tree defect of a Plain engine; a defective plane row, or a multiplier, is steered to the lowest spare row free, and the
plane is re-filled from its records while the run goes on. A defect in a unit that only the core has, or one that would fence a
second engine (the model's reading, log entry 25), fences the core at once, and its domain goes OFF; a core that is not ON changes
nothing (R312). A reserve core that is ON is bound to the tenant whose core it replaces, its own state cleared, by a lead that
may change that tenant's bindings now (R283). No
other core and no memory changes. A core is at its boundary here once nothing that it has started will retire and no stopped
instruction waits for a replay but those whose replay follows the steer of a plane row (R208, R334). The order of repairs in
one core is the model's reading (log entry 25). -/
def Obligations.DefectsAreRepaired : Prop :=
  ∀ (s : State) (c : Nat) (k : Core), s.Has c k → s.aon.fuses.log.length < 32 →
    let bounded := s.domOn c = true ∧ k.repairable = true ∧ k.rep.tapPending = false
    let first := fun (fix : Fix) (rest : List (Fix × Nat)) => ∃ idx, k.rep.defect = (fix, idx) :: rest
    let repaired := fun (rest : List (Fix × Nat)) (rec_ : Word) (u : State) (k' : Core) =>
      exec (.defectRepair c) s = .next u ∧ u.core? c = some k' ∧ k'.rep.defect = rest ∧ k'.store = k.store ∧ k'.gen = k.gen
        ∧ u.aon.fuses.log = s.aon.fuses.log ++ [rec_] ∧ (∀ d, d ≠ c → u.core? d = s.core? d) ∧ u.mem = s.mem
    let dirtied := fun (on : Nat → Bool) (k' : Core) => k'.run.state ≠ .running
      ∧ ∀ i, k'.slot i = if on (i / 2) = true ∧ (k.slot i).st = .acc then { k.slot i with st := .dirty } else k.slot i
    (s.domOn c = false → exec (.defectRepair c) s = .next s)
    ∧ (∀ e r p rest, bounded → first (.place (.colLane e r p false)) rest → k.colSpare e = true → p ∉ k.rep.colsEx.getD e [] →
      ∃ (u : State) (k' : Core), repaired rest (repairRecord 2 c e p 0) u k' ∧ dirtied (· == e) k' ∧ u.hp = s.hp
        ∧ k'.rep.colsEx = k.rep.colsEx.modify e (insertAsc p) ∧ k'.rep.epochs = k.rep.epochs.modify e (· + 1)
        ∧ k'.rep.rowsEx = k.rep.rowsEx ∧ k'.rep.fenced = k.rep.fenced)
    ∧ (∀ e r p byRow rest, bounded → first (.place (.colLane e r p byRow)) rest → (byRow = true ∨ k.colSpare e = false) →
      k.rowSpare = true → r ∉ k.rep.rowsEx →
      ∃ (u : State) (k' : Core), repaired rest (repairRecord 1 c 0 r 0) u k' ∧ dirtied (fun e => e == 0 || e == 1) k' ∧ u.hp = s.hp
        ∧ k'.rep.rowsEx = insertAsc r k.rep.rowsEx
        ∧ k'.rep.epochs = (k.rep.epochs.modify 0 (· + 1)).modify 1 (· + 1)
        ∧ k'.rep.colsEx = k.rep.colsEx ∧ k'.rep.fenced = k.rep.fenced)
    ∧ (∀ e r p byRow rest, bounded → isCol c = true → first (.place (.colLane e r p byRow)) rest → e < 2 → k.colSpare e = false →
      k.rowSpare = false → k.rep.fenced = 0 →
      ∃ (u : State) (k' : Core), repaired rest (repairRecord 5 c e 0 0) u k' ∧ dirtied (· == e) k'
        ∧ k'.rep.fenced = BitVec.ofNat 4 (1 <<< e) ∧ k'.rep.mapEpoch = k.rep.mapEpoch + 1
        ∧ k'.rep.epochs = k.rep.epochs.modify (1 - e) (· + 1)
        ∧ k'.rep.colsEx = k.rep.colsEx ∧ k'.rep.rowsEx = k.rep.rowsEx)
    ∧ (∀ e rest, bounded → isCol c = false → first (.place (.tree e)) rest → e < 4 → k.rep.fenced = 0 →
      ∃ (u : State) (k' : Core), repaired rest (repairRecord 5 c e 0 0) u k' ∧ k'.run.state ≠ .running
        ∧ k'.rep.fenced = BitVec.ofNat 4 (1 <<< e) ∧ k'.rep.mapEpoch = k.rep.mapEpoch + 1
        ∧ k'.plain.sets = k.plain.sets.map (fun x => { x with dirty := true }) ∧ k'.plain.plane = k.plain.plane)
    ∧ (∀ p pl sp rest, bounded → isCol c = false → (pl = .planeRow p ∨ ∃ e, pl = .plainMul e p) → first (.place pl) rest →
      freeSpare 8 k.rep.planeSpare = some sp → (∀ l, s.refillLost k l = false) →
      ∃ (u : State) (k' : Core), repaired rest (repairRecord 3 c 0 p sp) u k' ∧ u.hp = s.hp
        ∧ k'.rep.planeSpare = k.rep.planeSpare.filter (·.1 != p) ++ [(p, sp)]
        ∧ k'.plain.plane = (s.refillFrom k k.plain.recs).plain.plane ∧ k'.plain.recs = k.plain.recs
        ∧ k'.run = k.run ∧ k'.flight = k.flight ∧ k'.plain.sets = k.plain.sets)
    ∧ (∀ fix rest, s.domOn c = true → first fix rest → k.rep.coreFenced = false → s.shaped = true →
      (∀ g ∈ k.plain.fills, g.pk = none) →
      ((∃ g, fix = .place (.unit g))
        ∨ ∃ e, k.rep.fenced ≠ 0 ∧ k.rep.fenced.toNat.testBit e = false ∧ (fix = .place (.tree e)
            ∨ ∃ r p byRow, fix = .place (.colLane e r p byRow) ∧ k.colSpare e = false ∧ k.rowSpare = false)) →
      ∃ (u : State) (k' : Core), exec (.defectRepair c) s = .next u ∧ u.core? c = some k'
        ∧ k'.rep.coreFenced = true ∧ k'.rep.mapEpoch = k.rep.mapEpoch + 1 ∧ k'.flight = [] ∧ k'.run.state ≠ .running
        ∧ k'.store = k.store ∧ u.aon.fuses.log = s.aon.fuses.log ++ [repairRecord 6 c 0 0 0]
        ∧ u.dom c = .changing .off ((s.now + s.ticks 1) % 2 ^ 56)
        ∧ (∀ d, d ≠ c → u.core? d = s.core? d) ∧ u.mem = s.mem)
    ∧ (∀ t, s.blk.recover.find? (·.1 == c) = some (c, t) → s.dom c = .still .off →
      exec (.reserveCoreBinding c) s = .next { s with aon := { s.aon with
        doms := s.aon.doms.set c (.changing .on ((s.now + s.ticks 8) % 2 ^ 56)) } })
    ∧ (∀ t, s.blk.recover.find? (·.1 == c) = some (c, t) → s.domOn c = true → s.cpUp s.leadHalf = true →
      (s.splitTenant s.leadHalf t [c] = true → exec (.reserveCoreBinding c) s = .next s)
      ∧ (s.splitTenant s.leadHalf t [c] = false →
      ∃ u, exec (.reserveCoreBinding c) s = .next u ∧ u.core? c = some k.recycled
        ∧ u.auth.bind = s.auth.bind.set c (some t) ∧ u.auth.recov = s.auth.recov ++ [c] ∧ u.auth.tens = s.auth.tens
        ∧ u.blk.recover = s.blk.recover.filter (·.1 != c)
        ∧ (∀ d, d ≠ c → u.core? d = s.core? d) ∧ u.mem = s.mem ∧ u.aon = s.aon ∧ u.hp = s.hp))

/-- R331, R332, R333, R336, R337: uncorrectable data ends its receiver: an instruction's transfer is gone, the bytes before
the bad one stand, and its program gets the ending FAULT_FENCED at its index, or the packet of a MOVE its reply; a drain stops
where it is, having noted what its checks saw in the elements before (R165), and a pass, or a REFILL, leaves, with the same
ending and its slots or rows unusable, and a word of the store is marked; a half of the fill buffer that is bad
is staged once more, and the second time, or where its source is bad, the program or the command that asked for the page
fails; a core's program memory, chain memory or Ford table unloads its image. Every line over the Valley, of a transfer, a
page read, a packet's own accesses, a reply, a drain's status word or the re-fill of a plane slot, is retried four times before it
is lost to who asked for it. Which 64 bytes make a line that is retried is the model's choice (log entry 29); what the loss of a
line of a reply, of a status word or of a re-fill does is its reading (log entry 35), and so is the treatment of the slot of a
REFILL (log entry 30). -/
def Obligations.UncorrectableDataEndsItsReceiver : Prop :=
  ∀ (s : State) (c : Nat) (k : Core), s.Has c k →
    let ends := fun (k' : Core) (idx : Nat) =>
      k'.run.ending = some (k.run.ending.getD (BitVec.ofNat 8 Status.faultFenced.code, idx))
    (∀ x pos, s.xfer? x.id = some x → x.sent.isSome = true → (x.badAt.isSome = true ∨ pos < x.length) →
      ∃ v : State, exec (.uncorrectableData (.transfer x.id pos)) s = .next v.service
        ∧ v.xfer? x.id = none ∧ v.aon = s.aon
        ∧ (∀ l ∈ v.blk.readQ ++ v.blk.writeQ, l.owner ≠ x.id)
        ∧ (∀ a, x.dst = .fabric a → v.mem = s.mem.wrAll (shift a ((x.bytes s).take
            (match x.badAt with | some i => min i pos | none => pos))))
        ∧ (∀ f idx, x.owner = .instr c f idx → k.run.state = .running →
            ∃ k', v.core? c = some k' ∧ ends k' idx ∧ k'.flight? f = none ∧ v.hp = s.hp)
        ∧ (∀ p, x.owner = .packet p.id → s.pkt? p.id = some p → p.opcode = 0x30 → s.Replied v p .faultFenced 0 0 0))
    ∧ (∀ f idx d elem word, k.flight? f = some ⟨f, idx, .drain d⟩ → (d.ph = .taking ∨ d.ph = .held) → d.stuck = false →
      ∃ (u : State) (k' : Core), exec (.uncorrectableData (.drain c f elem word)) s = .next u ∧ u.core? c = some k'
        ∧ (∃ d', k'.flight? f = some ⟨f, idx, .drain d'⟩ ∧ d'.stuck = true) ∧ ends k' idx
        ∧ (∀ w, word = some w → w / 8 ∈ k'.rep.remap)
        ∧ (d.ti.dKind = 0 → (∃ d', k'.flight? f = some ⟨f, idx, .drain d'⟩
              ∧ { d' with stuck := d.stuck, out := { d'.out with poison := d.out.poison, guestLog := d.out.guestLog } } = d
              ∧ ((k.crossed c (s.readyDrain c d)).raced = false → d'.out.poison =
                  (d.out.poison || (k.crossed c (s.readyDrain c d)).out.seen.any fun y => decide (y.1 < elem) && y.2.isNone)))
            ∧ k'.slots = k.slots ∧ k'.store = k.store
            ∧ (∀ w, word = some w → k'.eccUnc = bump16 k.eccUnc ∧ w ∈ k'.bad) ∧ (word = none → k'.eccUnc = k.eccUnc))
        ∧ u.aon = s.aon ∧ u.hp = s.hp)
    ∧ (∀ f idx es ts w b p word, k.flight? f = some ⟨f, idx, .colPass es ts w b p⟩ →
      ∃ k', exec (.uncorrectableData (.pass c f word)) s =
          .next ((s.leavePoison c k [⟨f, idx, .colPass es ts w b p⟩]).setCore c k') ∧ ends k' idx ∧ k'.flight? f = none
        ∧ k'.isStopped f = false
        ∧ (∀ i, i ∉ k.passSlots es ts → k'.slot i = k.slot i)
        ∧ (∀ i, i ∈ k.passSlots es ts → i < k.slots.length → (k'.slot i).st = .draining)
        ∧ (∀ w, word = some w → w ∈ k'.bad ∧ k'.eccUnc = bump16 k.eccUnc ∧ w / 8 ∈ k'.rep.remap)
        ∧ (word = none → k'.bad = k.bad ∧ k'.eccUnc = k.eccUnc) ∧ k'.store = k.store)
    ∧ (∀ f idx row tree cls pg b p bad word x, k.flight? f = some ⟨f, idx, .plainPass row tree cls pg b p bad⟩ →
      k.rowSet? tree row = some x →
      ∃ k', exec (.uncorrectableData (.pass c f word)) s =
          .next ((s.leavePoison c k [⟨f, idx, .plainPass row tree cls pg b p bad⟩]).setCore c k') ∧ ends k' idx
        ∧ k'.flight? f = none ∧ k'.isStopped f = false ∧ k'.rowSet? tree row = some { x with dirty := true }
        ∧ (∀ w, word = some w → w ∈ k'.bad ∧ k'.eccUnc = bump16 k.eccUnc) ∧ k'.store = k.store ∧ k'.slots = k.slots)
    ∧ (∀ f idx e i r t au word, k.flight? f = some ⟨f, idx, .refill e i r t au⟩ → i < k.slots.length →
      ∃ k', exec (.uncorrectableData (.pass c f word)) s = .next (s.setCore c k') ∧ ends k' idx ∧ k'.flight? f = none
        ∧ k'.isStopped f = false ∧ k'.slot i = { k.slot i with st := .draining } ∧ (∀ j, j ≠ i → k'.slot j = k.slot j)
        ∧ (∀ w, word = some w → w ∈ k'.bad ∧ k'.eccUnc = bump16 k.eccUnc) ∧ k'.store = k.store)
    ∧ (∀ g rest h, k.plain.fills = g :: rest → k.plain.stagedFor g = some h →
      let pl := Place.fillHalf (decide (k.plain.halfB = some h))
      (h.bad = false → s.recurs k pl = false → g.restaged = false →
        ∃ (v : State) (k' : Core), exec (.uncorrectableData (.fill c)) s = .next (v.stageNext c) ∧ v.core? c = some k'
          ∧ k'.plain.fills = k.plain.fills.map (fun y => if y.id = g.id then { y with begun := 0, parts := 0, restaged := true } else y)
          ∧ k'.plain.halfA = k.plain.halfA.filter (·.fill != g.id) ∧ k'.plain.halfB = k.plain.halfB.filter (·.fill != g.id)
          ∧ k'.plain.plane = k.plain.plane ∧ k'.plain.recs = k.plain.recs ∧ k'.rep.lastDet = some (pl, s.now)
          ∧ (∀ d, d ≠ c → v.core? d = s.core? d) ∧ v.mem = s.mem)
      ∧ ((h.bad = true ∨ s.recurs k pl = false ∧ g.restaged = true) →
        (∀ n x, g.flight = some n → k.flight? n = some x →
          ∃ (v : State) (k' : Core), exec (.uncorrectableData (.fill c)) s = .next (v.stageNext c) ∧ v.core? c = some k'
            ∧ ends k' x.idx ∧ k'.flight? n = none ∧ (∀ y ∈ k'.plain.fills, y.id ≠ g.id) ∧ v.mem = s.mem))
      ∧ (h.bad = true → ∀ pk p, g.flight = none → g.pk = some pk →
        (s.dropFills fun y => decide (y.pk = some pk)).pkt? pk = some p →
        exec (.uncorrectableData (.fill c)) s =
          .next ((s.dropFills fun y => decide (y.pk = some pk)).complete p .faultFenced 0 0 0)))
    ∧ (∀ word, s.storeOn c k = true →
      ∃ k', exec (.uncorrectableData (.program c word)) s = .next (s.setCore c k') ∧ k'.eccUnc = bump16 k.eccUnc
        ∧ k'.rep.lastDet = some (.image word, s.now)
        ∧ k'.run.unloaded = BitVec.ofNat 8 Status.malformed.code ∧ k'.store = k.store
        ∧ (k.run.state = .running → ends k' k.run.pc ∧ k'.run.state = .running)
        ∧ (k.run.state ≠ .running → k'.run.state = .empty))
    ∧ (∀ x line, s.xfer? x.id = some x → line < x.load.lines →
      ∃ u, exec (.valleyLineRetry (.transfer x.id line)) s = .next u ∧ u.blk.cores = s.blk.cores ∧ u.mem = s.mem ∧ u.aon = s.aon
        ∧ u.xfer? x.id = some (if Tab.get 0 x.retries line < 4
            then { x with retries := Tab.set 0 x.retries line (Tab.get 0 x.retries line + 1) }
            else { x with badAt := minOpt x.badAt (some (64 * line)) })
        ∧ (∀ i, i ≠ x.id → u.xfer? i = s.xfer? i))
    ∧ (∀ line h g, (k.plain.halfA = some h ∨ k.plain.halfB = some h) → k.plain.fills.find? (fun y => y.id == h.fill) = some g →
      line < partBytes g.cls / 64 →
      let tried : Staged := if Tab.get 0 h.retries line < 4
        then { h with retries := Tab.set 0 h.retries line (Tab.get 0 h.retries line + 1) } else { h with bad := true }
      ∃ (u : State) (k' : Core), exec (.valleyLineRetry (.fill h.reads line)) s = .next u ∧ u.core? c = some k'
        ∧ (k.plain.halfA = some h → k'.plain.halfA = some tried) ∧ (k.plain.halfB = some h → k'.plain.halfB = some tried)
        ∧ k'.plain.fills = k.plain.fills ∧ k'.plain.plane = k.plain.plane ∧ k'.store = k.store ∧ k'.run = k.run
        ∧ u.mem = s.mem ∧ u.aon = s.aon ∧ u.hp = s.hp)
    ∧ (∀ p line, s.pkt? p.id = some p → p.moves = true → exec (.valleyLineRetry (.packet p.id line)) s =
        .next (s.setPkt (if Tab.get 0 p.retries line < 4
          then { p with retries := Tab.set 0 p.retries line (Tab.get 0 p.retries line + 1) } else { p with lost := true })))
    ∧ (∀ q r, s.blk.replies.find? (fun y => y.port == q) = some r →
      ∃ u, exec (.valleyLineRetry (.reply q)) s = .next u
        ∧ u.blk.replies.find? (fun y => y.port == q) = some (if r.retries < 4 then { r with retries := r.retries + 1 } else r.fenced)
        ∧ (u.blk.replies.filter fun y => y.port != q) = s.blk.replies.filter (fun y => y.port != q)
        ∧ u.blk.replies.length = s.blk.replies.length ∧ u.blk.cores = s.blk.cores ∧ u.mem = s.mem ∧ u.aon = s.aon ∧ u.hp = s.hp)
    ∧ (∀ f idx d, k.flight? f = some ⟨f, idx, .drain d⟩ → d.ph = .delivered → d.stuck = false → d.ti.stKind ≠ 1 →
      (d.tries < 4 → exec (.valleyLineRetry (.status c f)) s =
        .next (s.setCore c (k.setFlight ⟨f, idx, .drain { d with tries := d.tries + 1 }⟩)))
      ∧ (4 ≤ d.tries → exec (.valleyLineRetry (.status c f)) s =
        .next (s.setCore c ((k.setFlight ⟨f, idx, .drain { d with stuck := true }⟩).endWith .faultFenced idx))))
    ∧ (∀ slot line, line < 512 →
      (recValid (Tab.get ((0, 0) : Word × Word) k.plain.recs slot).1 = true
        ∨ recValid (Tab.get ((0, 0) : Word × Word) k.plain.recs slot).2 = true) →
      let key := 512 * slot + line
      exec (.valleyLineRetry (.refill c slot line)) s = .next (s.setCore c { k with plain := { k.plain with
        rereads := Tab.set 0 k.plain.rereads key (min 5 (Tab.get 0 k.plain.rereads key + 1)) } }))
    ∧ (∀ slot line rec_, 5 ≤ Tab.get 0 k.plain.rereads (512 * slot + line) → line < 512 →
      s.refillLost k [(slot, rec_)] = true)

/-- R119, R120, R216, R217, R331, R333, R338, R341, R350: a single-bit error in a store, or in program memory, chain memory
or the Ford table, is corrected and counted, a store word that cannot be corrected is counted and marked, and the scrubber
goes on line by line around the store; the fourth correction of a line within 1 s, or an uncorrectable word, asks for its
remap, which at the boundary takes the lowest spare line free and is logged, or with none left fences the core at once, while the
core is ON (R312). The
plane scrubber goes on slot by slot and, where the parity of a slot with a record is bad, counts it and re-fills it if no
pass reads it, and marks a row that recurs as a defect. No byte of a store changes. The number of spare lines, and that a re-fill
takes no time, are the model's readings (log entry 29). -/
def Obligations.StoresAreScrubbedAndRemapped : Prop :=
  ∀ (s : State) (c : Nat) (k : Core), s.Has c k →
    (∀ off, s.storeOn c k = true → off < storeSize (isCol c) →
      ∃ k', exec (.correctedWriteback c (.store off)) s = .next (s.setCore c k') ∧ k'.eccCor = bump16 k.eccCor
        ∧ k'.store = k.store ∧ k'.bad = k.bad ∧ k'.rep.lineSpare = k.rep.lineSpare
        ∧ k'.rep.lastDet = some (.line (off / 64), s.now)
        ∧ (3 ≤ (k.rep.corrected.filter fun e =>
            decide (e.1 = off / 64) && decide (s.since e.2 ≤ s.ticks 1000000)).length → off / 64 ∈ k'.rep.remap))
    ∧ (∀ word, s.storeOn c k = true → exec (.correctedWriteback c (.image word)) s = .next (s.setCore c { k with
        eccCor := bump16 k.eccCor, rep := { k.rep with lastDet := some (.image word, s.now) } }))
    ∧ (∀ e, s.storeOn c k = true →
      ∃ k', exec (.storeScrub c e) s = .next (s.setCore c k') ∧ k'.store = k.store
        ∧ k'.scrubStore = (if k.scrubStore + 1 < storeSize (isCol c) / 64 then k.scrubStore + 1 else 0)
        ∧ (e = .clean → k'.eccCor = k.eccCor ∧ k'.eccUnc = k.eccUnc ∧ k'.bad = k.bad ∧ k'.rep = k.rep)
        ∧ (e = .corrected → k'.eccCor = bump16 k.eccCor ∧ k'.eccUnc = k.eccUnc ∧ k'.bad = k.bad)
        ∧ (∀ w, e = .uncorrectable w → k'.eccUnc = bump16 k.eccUnc ∧ 8 * k.scrubStore + w % 8 ∈ k'.bad
            ∧ k.scrubStore ∈ k'.rep.remap))
    ∧ (∀ line, s.domOn c = false → exec (.storeLineRemap c line) s = .next s)
    ∧ (∀ line, line ∈ k.rep.remap → s.domOn c = true →
      (∀ sp, k.quiet = true → k.rep.defect = [] → k.rep.tapPending = false →
        sp < spareLines c → (∀ e ∈ k.rep.lineSpare, e.2 ≠ sp) → (∀ q, q < sp → ∃ e ∈ k.rep.lineSpare, e.2 = q) →
        s.aon.fuses.log.length < 32 →
        ∃ u, exec (.storeLineRemap c line) s = .next u ∧ u.core? c = some { k with rep := { k.rep with
            remap := k.rep.remap.filter (· != line), lineSpare := k.rep.lineSpare ++ [(line, sp)] } }
          ∧ u.aon.fuses.log = s.aon.fuses.log ++ [repairRecord 4 c 0 line sp]
          ∧ (∀ d, d ≠ c → u.core? d = s.core? d) ∧ u.mem = s.mem ∧ u.hp = s.hp)
      ∧ ((∀ q, q < spareLines c → ∃ e ∈ k.rep.lineSpare, e.2 = q) → (∀ g ∈ k.plain.fills, g.pk = none) →
        ∃ (u : State) (k' : Core), exec (.storeLineRemap c line) s = .next u ∧ u.core? c = some k'
          ∧ k'.rep.coreFenced = true ∧ (∀ d, d ≠ c → u.core? d = s.core? d) ∧ u.mem = s.mem))
    ∧ (∀ up prow, isCol c = false → s.storeOn c k = true →
      let k1 : Core := { k.upset up with scrubPlane := (k.scrubPlane + 1) % 1024 }
      let rec_ := Tab.get ((0, 0) : Word × Word) k.plain.recs k.scrubPlane
      let recs := k.plain.recs.filter (·.1 == k.scrubPlane)
      let bad := k1.plain.parityBad k.scrubPlane = true ∧ (recValid rec_.1 = true ∨ recValid rec_.2 = true)
      (¬bad → exec (.planeScrub c ⟨up, prow⟩) s = .next (s.setCore c k1))
      ∧ (bad → s.recurs k (.planeRow prow) = false ∨ freeSpare 8 k.rep.planeSpare ≠ none →
        ∃ k', exec (.planeScrub c ⟨up, prow⟩) s = .next (s.setCore c k') ∧ k'.scrubPlane = (k.scrubPlane + 1) % 1024
          ∧ k'.store = k.store ∧ k'.plain.recs = k.plain.recs ∧ k'.slots = k.slots ∧ k'.run = k.run
          ∧ k'.planePar = bump16 k.planePar ∧ k'.rep.lastDet = some (.planeRow prow, s.now)
          ∧ (k.reading [k.scrubPlane] = false → s.refillLost k1 recs = false →
              k'.plain.plane = (s.refillFrom k1 recs).plain.plane ∧ k'.plain.par = (s.refillFrom k1 recs).plain.par)
          ∧ k'.rep.defect = k.rep.defect ++
              (if s.recurs k (.planeRow prow) then [(.place (.planeRow prow), k.run.pc)] else [])))

/-- R232, R235, R336, R340, R355, R356: at a memory port that takes requests, the lines of a read request return in ascending
order: what the stack holds stands in the memory behind the port at the line's address, which is flagged no more, and an error
flags the line, which is uncorrectable data for who asked, the sixteenth within 1 s withdrawing the port; the oldest
outstanding write lines complete in order, the bytes that their transfer writes in each then stand, and an XFER, a drain or a
MOVE without a line left goes on; a fatal level withdraws the port: it is listed, logged, and sets bit 6 of the interrupt
status of every host port, its outstanding lines, written or read, are lost to who asked for them, and memory and the
interleave list stand. Under WS_INTEST the block sees none of these pins (R371). What may go on after any of them goes on
(`service`). The memory behind the ports is the model's field (log entry 6). -/
def Obligations.MemoryPortsAnswer : Prop :=
  (∀ (s : State) (q n : Nat) (r : ReadReturn), q < s.cfg.nPorts → s.intest = true →
    exec (.mpReadResponse q r) s = .next s ∧ exec (.mpWriteCompletion q n) s = .next s
    ∧ exec (.mpFatal q) s = .next { s with pins := { s.pins with memFatal := s.pins.memFatal.set q true } })
  ∧ ∀ (s : State) (q : Nat), q < s.cfg.nPorts → s.shaped = true → s.intest = false →
    let halves := fun k k' : Core => k' = { k with plain := { k.plain with halfA := k'.plain.halfA, halfB := k'.plain.halfB } }
    (∀ tag ls r, s.portUp q = true → (s.port q).rdq.find? (·.tag == tag) = some r → ls ≠ [] → ls.length ≤ r.left →
      (s.port q).flagHist.length + ls.length < 16 →
      ∃ v : State, exec (.mpReadResponse q ⟨tag, r.idx, ls⟩) s = .next v.service
        ∧ v.mem = ((List.range ls.length).zip ls).foldl (fun m e =>
            match addrOf s.aon.listA q (64 * (r.line + e.1)) with
            | some a => if e.2.err then m else m.wrAll (numBytes a 64 e.2.data.toNat)
            | none => m) s.mem
        ∧ (v.port q).rdq = ((s.port q).rdq.map fun y => if y.tag = tag
            then { y with line := y.line + ls.length, idx := y.idx + ls.length, left := y.left - ls.length }
            else y).filter (fun y => decide (y.left ≠ 0))
        ∧ (v.port q).wrq = (s.port q).wrq ∧ (∀ p, p ≠ q → v.port p = s.port p)
        ∧ (∀ l a, ls = [l] → addrOf s.aon.listA q (64 * r.line) = some a →
            (l.err = false → v.flagged = s.flagged.filter (· != a / 64) ∧ (v.port q).flagHist = (s.port q).flagHist)
            ∧ (l.err = true → a / 64 ∈ v.flagged ∧ (r.line, s.now) ∈ (v.port q).flagHist
                ∧ v.blk.xfers = s.blk.xfers.map (fun x => if x.id = r.owner then x.loseLine (a / 64) else x)
                ∧ (∀ d k, s.core? d = some k → ∃ k', v.core? d = some k' ∧ halves k k'
                    ∧ ∀ h, (k'.plain.halfA = some h ∨ k'.plain.halfB = some h) → h.reads = r.owner → h.bad = true)))
        ∧ ((∀ l ∈ ls, l.err = false) → v.blk.cores = s.blk.cores ∧ v.blk.xfers = s.blk.xfers)
        ∧ v.aon = s.aon ∧ v.hp = s.hp)
    ∧ (∀ tag l r a, s.portUp q = true → q ∈ s.aon.listA → (s.port q).rdq.find? (·.tag == tag) = some r → 0 < r.left →
      l.err = true → addrOf s.aon.listA q (64 * r.line) = some a →
      15 ≤ ((s.port q).flagHist.filter fun e => decide (s.since e.2 ≤ s.ticks 1000000) && e.1 != r.line).length →
      ∃ u, exec (.mpReadResponse q ⟨tag, r.idx, [l]⟩) s = .next u ∧ q ∈ u.aon.withdrawn ∧ u.mem = s.mem)
    ∧ (∀ l rest x a, (s.port q).wrq = l :: rest → s.xfer? l.owner = some x → x.dst = .fabric a → x.blocked = false →
      x.sent.isSome = true →
      let left := s.blk.writeQ.any (·.owner == x.id) = true ∨
        ∃ p m, p < s.blk.ports.length ∧ m ∈ (if p = q then rest else (s.port p).wrq) ∧ m.owner = x.id
      ∃ v : State, exec (.mpWriteCompletion q 1) s = .next v.service
        ∧ v.mem = s.mem.wrAll ((shift a (x.bytes s)).filter fun b => b.1 / 64 == l.line)
        ∧ (v.port q).wrq = rest ∧ (∀ p, p ≠ q → v.port p = s.port p) ∧ (∀ h, v.cp h = s.cp h)
        ∧ (left → v.xfer? x.id = some x ∧ v.blk.cores = s.blk.cores ∧ v.blk.pkts = s.blk.pkts ∧ v.aon = s.aon ∧ v.hp = s.hp)
        ∧ (¬left → v.xfer? x.id = none
            ∧ (∀ c f idx k, x.owner = .instr c f idx → s.Has c k → v.blk.pkts = s.blk.pkts ∧ v.hp = s.hp
                ∧ (∀ d, d ≠ c → v.core? d = s.core? d)
                ∧ ((∃ i j d, k.flight? f = some ⟨i, j, .drain d⟩) → v.core? c = some { k with
                    flight := k.flight.map fun y => if y.id = f then y.landed else y })
                ∧ ((∀ i j d, k.flight? f ≠ some ⟨i, j, .drain d⟩) → v.core? c = some (k.retire f)))
            ∧ (∀ p, x.owner = .packet p.id → s.pkt? p.id = some p → p.opcode = 0x30 →
                s.Replied v p .ok 0 0 0 ∧ s.GoOn v p.id (p.todo ++ p.acted) ∧ v.aon = s.aon)))
    ∧ (∀ n, let done := (s.port q).wrq.take n
      (∀ l ∈ done, ∃ x a, s.xfer? l.owner = some x ∧ x.dst = .fabric a ∧ x.blocked = false ∧ x.sent.isSome = true) →
      ∃ v : State, exec (.mpWriteCompletion q n) s = .next v.service
        ∧ v.mem = done.foldl (fun m l => match s.xfer? l.owner with
            | some x => match x.dst with
              | .fabric a => m.wrAll ((shift a (x.bytes s)).filter fun b => b.1 / 64 == l.line)
              | _ => m
            | none => m) s.mem
        ∧ (v.port q).wrq = (s.port q).wrq.drop n ∧ (∀ p, p ≠ q → v.port p = s.port p)
        ∧ ∀ l x, l ∈ done → s.xfer? l.owner = some x →
          let left := s.blk.writeQ.any (·.owner == x.id) = true ∨
            ∃ p m, p < s.blk.ports.length ∧ m ∈ (if p = q then (s.port q).wrq.drop n else (s.port p).wrq) ∧ m.owner = x.id
          (left → v.xfer? x.id = some x) ∧ (¬left → v.xfer? x.id = none))
    ∧ ((s.port q).wrq = [] → ∀ n, exec (.mpWriteCompletion q n) s = .next s.service)
    ∧ (s.domOn (s.domGroup (q / 5)) = true → q ∈ s.aon.listA → q ∉ s.aon.withdrawn → s.aon.fuses.log.length < 32 →
      ∃ v : State, exec (.mpFatal q) s = .next v.service ∧ (∀ p, p ∈ v.aon.withdrawn ↔ p = q ∨ p ∈ s.aon.withdrawn)
        ∧ v.aon.fuses.log = s.aon.fuses.log ++ [repairRecord 7 0 0 q 0] ∧ (v.port q).wrq = [] ∧ (v.port q).rdq = []
        ∧ v.pins = { s.pins with memFatal := s.pins.memFatal.set q true }
        ∧ (∀ p h, p < 8 → s.hp[p]? = some h → v.hp[p]? = some { h with irq := h.irq ||| 64 })
        ∧ (∀ (l : Lines) (x : Transfer) (a i : Nat), l ∈ (s.port q).wrq → s.xfer? l.owner = some x → x.dst = .fabric a →
            ((x.bytes s)[i]?.map fun (b : Nat × Byte) => (a + b.1) / 64) = some l.line →
            ∃ y, v.xfer? x.id = some y ∧ y.badAt.isSome = true)
        ∧ (∀ r i a0, r ∈ (s.port q).rdq → i < r.left → addrOf s.aon.listA q (64 * (r.line + i)) = some a0 →
            (∀ x a sp n rb b1 b2 b3 b4 b5, s.xfer? r.owner = some x → x.load = .copy (.fabric a) sp n rb b1 b2 b3 b4 b5 →
              (∃ o ∈ x.load.srcOffs, (a + o) / 64 = a0 / 64) → ∃ y, v.xfer? x.id = some y ∧ y.badAt.isSome = true)
            ∧ ∀ d k' h, v.core? d = some k' → (k'.plain.halfA = some h ∨ k'.plain.halfB = some h) → h.reads = r.owner →
                h.bad = true)
        ∧ (v.groupGone (q / 5) = true → v.dom (s.domGroup (q / 5)) = .changing .off ((s.now + s.ticks 1) % 2 ^ 56))
        ∧ v.aon.listA = s.aon.listA ∧ v.mem = s.mem
        ∧ (∀ d k, s.core? d = some k → ∃ k', v.core? d = some k' ∧ halves k k'))

/-! ### The two halves -/

/-- R275, R276, R278 to R285: in a block with two command processors, one that works sends a heartbeat once 1 µs has passed, but
none after SEAL while its role is OFF, which it has left reset with; one
received is remembered with its time. A side that has heard nothing for 16 µs deems the other silent, and a sealed follower, or
one that has left reset, then claims the lead with an epoch greater than both, and at once leads a side that is off; a lead
stays the lead. A claim is confirmed by a heartbeat that shows the other side as follower at its epoch. Heartbeats that show two
claims are resolved for the higher epoch, West where they are equal: the loser follows with the winner's epoch and replies
REDIRECT for each packet at its ports that has not started, and the winner takes the copy of the higher generation, applies
both pending logs and leads. Once the other side is OFF, a sealed side that works leads and serves every core and port; a packet
at an adopted port gets REDIRECT where it had not been taken and FAULT_FENCED where it had, and the programs of that half end.
That a claim is resolved in one step is the model's reading (log entry 22), and so is what becomes of replies that an adopted
port holds (log entry 21). -/
def Obligations.HeartbeatsKeepTheLead : Prop :=
  ∀ (s : State) (h : Half), s.cfg.hasEast = true → s.cpUp h = true →
    let claimed := BitVec.ofNat 16 (min 0xFFFF (max s.aon.epochW.toNat s.aon.epochE.toNat + 1))
    let copyOf := fun (w : Half) =>
      let a := s.cp w
      let b := s.cp w.other
      (sortLog (b.log ++ a.log)).foldl TState.apply
        (if s.cpUp w.other = true ∧ a.ts.gen.toNat < b.ts.gen.toNat then b.ts else a.ts)
    let settled := (s.blk.pkts.map (·.id)).Nodup ∧ ∀ p ∈ s.blk.pkts, p.asked = false ∧ p.reply = none ∧ s.sealSilent p = false
    (s.aon.sealed = true → s.role h = .off → exec (.heartbeatSend h) s = .next s)
    ∧ (s.past (s.cp h).sentAt 1 = true → (s.aon.sealed = false ∨ s.role h ≠ .off) → ∃ u, exec (.heartbeatSend h) s = .next u
    ∧ (u.cp h).sentAt = s.now
      ∧ u.blk.saddle = s.blk.saddle ++ [(h.other, .heartbeat (s.role h) (s.epoch h))]
      ∧ u.blk.cores = s.blk.cores ∧ u.aon = s.aon ∧ u.mem = s.mem ∧ u.hp = s.hp)
    ∧ (∀ r e rest, s.blk.saddle = (h, .heartbeat r e) :: rest →
      (s.aon.sealed = false →
        ∃ u, exec (.heartbeatReceive h) s = .next u ∧ (u.cp h).heard = some (r, e) ∧ (u.cp h).heardAt = s.now
          ∧ (u.cp h).silent = false ∧ u.aon.roleW = s.aon.roleW ∧ u.aon.roleE = s.aon.roleE
          ∧ u.aon.epochW = s.aon.epochW ∧ u.aon.epochE = s.aon.epochE
          ∧ u.blk.cores = s.blk.cores ∧ u.mem = s.mem ∧ u.hp = s.hp)
      ∧ (s.aon.sealed = true → (s.cp h).silent = false → s.role h = .lead → r.claims = false →
        ∃ u, exec (.heartbeatReceive h) s = .next u ∧ (u.cp h).heard = some (r, e) ∧ u.role h = .lead
          ∧ u.epoch h = s.epoch h ∧ u.role h.other = s.role h.other ∧ u.blk.saddle = rest
          ∧ u.blk.cores = s.blk.cores ∧ u.mem = s.mem ∧ u.hp = s.hp)
      ∧ (s.aon.sealed = true → s.role h = .claiming → r = .follower → e = s.epoch h → s.role h.other = .follower →
        ∃ u, exec (.heartbeatReceive h) s = .next u ∧ u.role h = .lead ∧ u.role h.other = .follower
          ∧ u.epoch h = s.epoch h ∧ u.epoch h.other = s.epoch h.other
          ∧ (u.cp h).ts = copyOf h ∧ (u.cp h).current = true ∧ (u.cp h).log = [] ∧ (u.cp h.other).log = [] ∧ u.mem = s.mem)
      ∧ (s.aon.sealed = true → (s.role h).claims = true → r.claims = true → (s.role h.other).claims = true →
        let w : Half := if (s.epoch .east).toNat ≤ (s.epoch .west).toNat then .west else .east
        let lost := fun (p : Packet) => p.unstarted && decide ((s.hp.getD p.port .reset).cpHalf = w.other)
        ∃ u, exec (.heartbeatReceive h) s = .next u ∧ u.role w = .lead ∧ u.role w.other = .follower
          ∧ u.epoch w = s.epoch w ∧ u.epoch w.other = s.epoch w
          ∧ (u.cp w).ts = copyOf w ∧ (u.cp w).current = true ∧ (u.cp w).log = [] ∧ (u.cp w.other).log = []
          ∧ (settled → u.blk.replies = s.blk.replies ++ (s.blk.pkts.filter lost).map
                (fun p => ⟨p.port, replyWord p Status.redirect.code 0 0, 0, 0⟩)
              ∧ ∀ p ∈ s.blk.pkts, u.pkt? p.id = if lost p then none else some p)
          ∧ u.mem = s.mem))
    ∧ (s.past (s.cp h).heardAt 16 = true → s.aon.sealed = true →
      (s.role h = .follower ∨ s.role h = .off →
        (s.cpOff h.other = false →
          ∃ u, exec (.silenceTimeout h) s = .next u ∧ u.role h = .claiming ∧ u.role h.other = s.role h.other
            ∧ u.epoch h = claimed ∧ u.epoch h.other = s.epoch h.other ∧ (u.cp h).silent = true ∧ u.aon.saddleUp = false
            ∧ u.blk.cores = s.blk.cores ∧ u.mem = s.mem ∧ u.hp = s.hp ∧ u.blk.pkts = s.blk.pkts)
        ∧ (s.cpOff h.other = true →
          ∃ u, exec (.silenceTimeout h) s = .next u ∧ u.role h = .lead ∧ u.role h.other = s.role h.other
            ∧ u.epoch h = claimed ∧ u.epoch h.other = s.epoch h.other ∧ u.mem = s.mem))
      ∧ (s.role h = .lead → (s.cp h).silent = false →
        ∃ u, exec (.silenceTimeout h) s = .next u ∧ u.role h = .lead ∧ u.role h.other = s.role h.other
          ∧ u.epoch h = s.epoch h ∧ u.epoch h.other = s.epoch h.other ∧ (u.cp h).silent = true ∧ u.mem = s.mem))
    ∧ (s.aon.sealed = true → s.cpOff h.other = true → s.adopted h = false → s.shaped = true →
      ∃ (u : State), exec (.otherSideOff h) s = .next u ∧ u.role h = .lead ∧ u.role h.other = s.role h.other
        ∧ (∀ (p : Nat) (x : HostPort), u.hp[p]? = some x → x.cpHalf = h) ∧ (∀ c, c < s.cfg.nCores → u.servedBy c = h)
        ∧ (s.role h = .lead ∨ s.role h = .claiming → u.epoch h = s.epoch h)
        ∧ (s.role h ≠ .lead → s.role h ≠ .claiming → u.epoch h = claimed)
        ∧ (settled →
            let far := fun (p : Nat) => decide ((s.hp.getD p .reset).cpHalf ≠ h)
            u.blk.replies = s.blk.replies.map (fun r => if far r.port then r.fenced else r)
                ++ (s.blk.pkts.filter fun p => far p.port).map (fun p =>
                  ⟨p.port, replyWord p (if p.unstarted then Status.redirect else .faultFenced).code 0 0, 0, 0⟩)
              ∧ ∀ p ∈ s.blk.pkts, u.pkt? p.id = if far p.port then none else some p.alone)
        ∧ (s.blk.pkts = [] →
            (∀ c k, s.core? c = some k → s.cfg.halfOf c = h.other → k.run.state = .running →
              u.core? c = some (k.endWith .faultFenced k.run.pc))
            ∧ (∀ c, s.cfg.halfOf c = h → u.core? c = s.core? c))
        ∧ u.mem = s.mem)

/-- R252, R276, R277, R283, R284, R360: an order takes its place among the core commands of the half that it reaches, its
completion is noted where it was ordered. A follower that has executed its part of BIND, RELEASE, STEP_BEGIN, STEP_COMMIT,
READ_HEALTH or RESET_TENANT asks the lead; the lead applies the tenant-state part of the request and answers, with the reply
that the packet gets once the follower's copy holds the change, and every merge of its drains has been made, but not while it
deems the follower silent and the tenant, or the packet, holds a core that the follower serves; the request of a packet that has
been ended meanwhile is dropped. The answer is noted, a mirror update makes the follower's copy the lead's; a half that has come
back copies the state of a lead it hears and follows it with its epoch, takes its ports back once they have every credit and its
cores back once no packet executes there. That a mirror update copies the lead's state as it stands on arrival is the model's
choice (log entry 20). -/
def Obligations.SaddleMessagesTakeEffect : Prop :=
  ∀ (s : State) (h : Half) (rest : List (Half × Msg)) (p : Packet), s.cfg.hasEast = true → s.cpUp h = true →
    (s.blk.saddle = (h, .order p.id) :: rest → s.pkt? p.id = some p →
      exec (.saddleOrder h) s = .next ({ s with blk := { s.blk with
        saddle := rest, nextOrd := s.blk.nextOrd + 1 } }.setPkt { p with order2 := some s.blk.nextOrd }))
    ∧ (s.blk.saddle = (h, .orderDone p.id) :: rest → s.pkt? p.id = some p →
      exec (.saddleOrderCompletion h) s = .next ({ s with blk := { s.blk with saddle := rest } }.setPkt
        { p with orderDone := true }))
    ∧ (s.aon.sealed = true → s.role p.half = .follower → s.tsHeld p = false → p.asked = false →
      let asks := fun (q : Packet) => (Host.Outcome.next
        ((s.setPkt { q with st := .running, asked := true }).post p.half.other (.request p.id)) : Out)
      (s.Executes p 0x40 → exec (.stepBegin p.id) s = asks (s.started p))
      ∧ (s.Executes p 0x41 → exec (.stepCommit p.id) s = asks (s.started p))
      ∧ (s.Executes p 0x52 → exec (.readHealth p.id) s = asks (s.started p))
      ∧ (p.reported = true → s.mergedFor p = true →
          (s.Acted p 0x10 → exec (.bind p.id) s = asks p) ∧ (s.Acted p 0x11 → exec (.release p.id) s = asks p)
          ∧ (s.Acted p 0x7F → exec (.resetTenant p.id) s = asks p)))
    ∧ (s.blk.saddle = (h, .request p.id) :: rest → s.pkt? p.id = some p → s.role h = .lead → s.role h.other = .follower →
      (s.splitTenant h p.tenant p.acted = true → exec (.tenantStateRequest h) s = .next s)
      ∧ (s.splitTenant h p.tenant p.acted = false → (p.asked = false ∨ p.st ≠ .running) →
        exec (.tenantStateRequest h) s = .next { s with blk := { s.blk with saddle := rest } })
      ∧ (s.splitTenant h p.tenant p.acted = false → p.asked = true → p.st = .running →
        p.tenant < s.auth.tens.length → (∀ c ∈ p.acted, c < s.auth.bind.length) →
        let x := s.auth
        let y := x.ten p.tenant
        let id := BitVec.ofNat 32 (fld (p.arg 1) 31 0)
        let mask := word (maskOf p.acted)
        let t := if s.aon.sealed then p.tenant else 0
        let b := s.healthBlock t (if s.aon.sealed then x.coresOf t else [])
        let a := s.packetAddr p (fld (p.arg 1) 47 0) (8 * b.length)
        let only := fun (u : State) (z : Tenant) => u.auth.ten p.tenant = z ∧ (∀ t, t ≠ p.tenant → u.auth.ten t = x.ten t)
          ∧ u.auth.bind = x.bind ∧ u.auth.recov = x.recov ∧ u.mem = s.mem
        let bound := fun (u : State) (v : Option Nat) => u.auth.tens = x.tens ∧ u.mem = s.mem
          ∧ ∀ c, u.auth.bind.getD c none = if c ∈ p.acted then v else x.bind.getD c none
        let answers := fun (u : State) (changed : Bool) (r : Word × Word) =>
          u.auth.gen = (if changed then x.gen + 1 else x.gen) ∧ (h.other, Msg.answer p.id) ∈ u.blk.saddle
            ∧ u.pkt? p.id = some { p with st := .mirror u.auth.gen, reply := some r }
            ∧ u.blk.cores = s.blk.cores ∧ u.hp = s.hp ∧ u.aon = s.aon
        ∃ u, exec (.tenantStateRequest h) s = .next u
          ∧ (p.opcode = 0x10 → bound u (some p.tenant) ∧ answers u (!p.acted.isEmpty) (replyOf p .ok mask))
          ∧ (p.opcode = 0x11 → bound u none ∧ answers u (!p.acted.isEmpty) (replyOf p .ok mask))
          ∧ (p.opcode = 0x40 → y.stepOpen = true → only u y ∧ answers u false (replyOf p .malformed 0))
          ∧ (p.opcode = 0x40 → y.stepOpen = false → only u { y with stepOpen := true, stepId := id, poison := false }
              ∧ answers u true (replyOf p .ok (word id.toNat)))
          ∧ (p.opcode = 0x41 → (y.stepOpen = false ∨ y.stepId ≠ id) → only u y ∧ answers u false (replyOf p .malformed 0))
          ∧ (p.opcode = 0x41 → y.stepOpen = true → y.stepId = id → y.poison = true →
              only u { y with stepOpen := false } ∧ answers u true (replyOf p .poisonedStep 0))
          ∧ (p.opcode = 0x41 → y.stepOpen = true → y.stepId = id → y.poison = false →
              only u { y with stepOpen := false, live := !y.live } ∧ answers u true (replyOf p .ok (word id.toNat)))
          ∧ (p.opcode = 0x52 → p.lost = false → s.lostRange a (8 * b.length) = true → only u y
              ∧ answers u false (replyWord p Status.faultFenced.code 7 (s.lostMask a (8 * b.length)), 0))
          ∧ (p.opcode = 0x52 → p.lost = false → s.lostRange a (8 * b.length) = false →
              u.mem = s.mem.wrAll (wordBytes a b) ∧ u.auth.bind = x.bind
              ∧ (∀ i, i < x.tens.length → u.auth.ten i =
                  if i = t ∧ p.opt = true then { x.ten i with invDrains := 0, flags := 0, cap := 0 } else x.ten i)
              ∧ answers u p.opt (replyOf p .ok (word b.length)))
          ∧ (p.opcode = 0x7F →
              only u { y with invDrains := 0, flags := 0, cap := 0, stepOpen := false, poison := false }
              ∧ answers u true (replyOf p .ok mask))))
    ∧ (∀ g r, s.blk.saddle = (h, .answer p.id) :: rest → s.pkt? p.id = some p → p.st = .mirror g → p.reply = some r →
      p.asked = true →
      (g.toNat ≤ (s.cp h).ts.gen.toNat → (coreOrdered p.opcode = true → s.merged p.tenant = true) →
        ∃ u, exec (.tenantStateAnswer h) s = .next u ∧ u.pkt? p.id = none ∧ s.GoOn u p.id (p.todo ++ p.acted)
          ∧ u.blk.saddle = rest ∧ u.mem = s.mem)
      ∧ ((s.cp h).ts.gen.toNat < g.toNat ∨ (s.follower? = true ∧ coreOrdered p.opcode = true ∧ s.merged p.tenant = false) →
        exec (.tenantStateAnswer h) s = .next ({ s with blk := { s.blk with saddle := rest } }.setPkt
          { p with answered := true })))
    ∧ (s.blk.saddle = (h, .mirror) :: rest → s.role h = .follower →
      ∃ u, exec (.mirrorUpdate h) s = .next u ∧ (u.cp h).ts = (s.cp h.other).ts ∧ (u.cp h).current = true
        ∧ u.cp h.other = s.cp h.other ∧ u.mem = s.mem
        ∧ (∀ x ∈ s.blk.pkts, ∀ g r, x.st = .mirror g → x.reply = some r → x.asked = false →
            g.toNat ≤ (s.cp h.other).ts.gen.toNat → (coreOrdered x.opcode = true → s.merged x.tenant = true) →
            u.pkt? x.id = none)
        ∧ ((∀ x ∈ s.blk.pkts, ∀ g, x.st ≠ .mirror g) →
            u.blk.cores = s.blk.cores ∧ u.blk.pkts = s.blk.pkts ∧ u.aon = s.aon ∧ u.hp = s.hp))
    ∧ (∀ e, s.aon.sealed = true → s.role h = .off → (s.cp h).silent = false → s.role h.other = .lead →
      (s.cp h).heard = some (.lead, e) →
      ∃ u, exec (.tenantStateCopy h) s = .next u ∧ (u.cp h).ts = (s.cp h.other).ts ∧ (u.cp h).current = true
        ∧ u.role h = .follower ∧ u.role h.other = .lead ∧ u.epoch h = s.epoch h.other ∧ u.epoch h.other = s.epoch h.other
        ∧ u.blk.cores = s.blk.cores ∧ u.mem = s.mem ∧ u.hp = s.hp)
    ∧ (∀ i x, i < 8 → s.hp[i]? = some x → x.credits = 16 → s.serves (s.homeOf i) = true →
      exec (.portTakeback i) s = .next (s.modHp i fun y => { y with cpHalf := s.homeOf i }))
    ∧ (∀ c k, s.Has c k → s.serves (s.cfg.halfOf c) = true → s.busyCore c = false →
      exec (.coreTakeback c) s = .next { s with blk := { s.blk with
        served := s.blk.served.set c (s.cfg.halfOf c) } })
end

