-- ==== Sys2Proof/Laws/Ops.lean ====
section
/-! SUPPORT. What the shared operations of the machine answer: reading a core after it is set, and the common forms of core,
half, port, tile and packet commands. -/

namespace Sys2Proof.Machine

open Host (Outcome)

/-! ### Cores -/

theorem State.setCore_core? {s : State} {c : Nat} {k k' : Core} (h : s.core? c = some k) :
    (s.setCore c k').core? c = some k' := by
  unfold State.core? at *
  unfold State.setCore
  simp only [List.getElem?_set_self', h]
  rfl

theorem State.setCore_core?_ne {s : State} {c d : Nat} {k' : Core} (h : d ≠ c) :
    (s.setCore c k').core? d = s.core? d := by
  unfold State.core? State.setCore
  exact List.getElem?_set_ne (Ne.symm h)

theorem State.core_eq {s : State} {c : Nat} {k : Core} (h : s.core? c = some k) : s.core c = k := by
  unfold State.core? at h
  unfold State.core
  simp only [List.getD, h, Option.getD_some]

theorem State.modCore_eq {s : State} {c : Nat} {k : Core} (f : Core → Core) (h : s.core? c = some k) :
    s.modCore c f = s.setCore c (f k) := by
  unfold State.modCore
  simp only [h]

/-! ### The common forms of commands -/

theorem coreCmd_has {s : State} {c : Nat} {k : Core} {f : Core → State} (h : s.Has c k) :
    coreCmd s c f = .next (f k) := by
  unfold coreCmd
  rw [if_pos h.1, State.core_eq h.2]

theorem tileCmd_starts {s : State} {c : Nat} {op : Op} {k : Core} {t : TI} {go : Core → TI → Option State}
    (h : s.Starts c op k t) : tileCmd s c op go = .next ((go k t).getD s) := by
  obtain ⟨h1, h2, h3, h4⟩ := h
  unfold tileCmd
  rw [coreCmd_has h1]
  simp only [h2, h3, h4, if_true]

/-- A packet that executes is handed to its command's meaning as it starts. -/
theorem State.command_executes {s : State} {p : Packet} {op : Nat} {go : Packet → State} (h : s.Executes p op) :
    s.command p.id op go = go (s.started p) := by
  obtain ⟨h1, h2, h3, h4, h5, hn, h6, h7⟩ := h
  unfold State.command
  rw [h1]
  simp only [h2, h3, h4, h5, hn, h6, h7, firstOf, State.started, and_self, if_true]
  rfl

/-- A packet that has acted is handed to its command's meaning again. -/
theorem State.command_acted {s : State} {p : Packet} {op : Nat} {go : Packet → State} (h : s.Acted p op) :
    s.command p.id op go = go p := by
  obtain ⟨h1, h2, h3, h4⟩ := h
  unfold State.command
  rw [h1]
  simp only [h2, h3, h4, and_self, or_true, if_true]

end Sys2Proof.Machine
end

