-- ==== Sys2Proof/Laws/State.lean ====
section
/-! SUPPORT. What the named operations over the state leave unchanged: one lemma per operation and field, for simp, so that no
later proof unfolds an update. -/

namespace Sys2Proof.Machine

/-- A fold whose step keeps a component keeps it. -/
theorem foldl_keeps {β α : Type} (F : State → β) (l : List α) (f : State → α → State) (s : State)
    (h : ∀ s a, F (f s a) = F s) : F (l.foldl f s) = F s := by
  induction l generalizing s with
  | nil => rfl
  | cons a t ih => rw [List.foldl_cons, ih, h]

/-! `State.setCore` -/
@[simp] theorem State.setCore_cfg (s : State) (c : Nat) (k : Core) : (State.setCore s c k).cfg = s.cfg := rfl
@[simp] theorem State.setCore_pins (s : State) (c : Nat) (k : Core) : (State.setCore s c k).pins = s.pins := rfl
@[simp] theorem State.setCore_aon (s : State) (c : Nat) (k : Core) : (State.setCore s c k).aon = s.aon := rfl
@[simp] theorem State.setCore_hp (s : State) (c : Nat) (k : Core) : (State.setCore s c k).hp = s.hp := rfl
@[simp] theorem State.setCore_mem (s : State) (c : Nat) (k : Core) : (State.setCore s c k).mem = s.mem := rfl
@[simp] theorem State.setCore_flagged (s : State) (c : Nat) (k : Core) : (State.setCore s c k).flagged = s.flagged := rfl
@[simp] theorem State.setCore_free (s : State) (c : Nat) (k : Core) : (State.setCore s c k).free = s.free := rfl
@[simp] theorem State.setCore_pending (s : State) (c : Nat) (k : Core) : (State.setCore s c k).pending = s.pending := rfl
@[simp] theorem State.setCore_pkts (s : State) (c : Nat) (k : Core) : (State.setCore s c k).blk.pkts = s.blk.pkts := rfl
@[simp] theorem State.setCore_xfers (s : State) (c : Nat) (k : Core) : (State.setCore s c k).blk.xfers = s.blk.xfers := rfl
@[simp] theorem State.setCore_ports (s : State) (c : Nat) (k : Core) : (State.setCore s c k).blk.ports = s.blk.ports := rfl
@[simp] theorem State.setCore_replies (s : State) (c : Nat) (k : Core) : (State.setCore s c k).blk.replies = s.blk.replies := rfl
@[simp] theorem State.setCore_saddle (s : State) (c : Nat) (k : Core) : (State.setCore s c k).blk.saddle = s.blk.saddle := rfl
@[simp] theorem State.setCore_served (s : State) (c : Nat) (k : Core) : (State.setCore s c k).blk.served = s.blk.served := rfl
@[simp] theorem State.setCore_west (s : State) (c : Nat) (k : Core) : (State.setCore s c k).blk.west = s.blk.west := rfl
@[simp] theorem State.setCore_east (s : State) (c : Nat) (k : Core) : (State.setCore s c k).blk.east = s.blk.east := rfl
@[simp] theorem State.setCore_nextPk (s : State) (c : Nat) (k : Core) : (State.setCore s c k).blk.nextPk = s.blk.nextPk := rfl


/-! `State.modCore` -/
@[simp] theorem State.modCore_cfg (s : State) (c : Nat) (f : Core → Core) : (State.modCore s c f).cfg = s.cfg := by
  unfold State.modCore; split <;> rfl
@[simp] theorem State.modCore_pins (s : State) (c : Nat) (f : Core → Core) : (State.modCore s c f).pins = s.pins := by
  unfold State.modCore; split <;> rfl
@[simp] theorem State.modCore_aon (s : State) (c : Nat) (f : Core → Core) : (State.modCore s c f).aon = s.aon := by
  unfold State.modCore; split <;> rfl
@[simp] theorem State.modCore_hp (s : State) (c : Nat) (f : Core → Core) : (State.modCore s c f).hp = s.hp := by
  unfold State.modCore; split <;> rfl
@[simp] theorem State.modCore_mem (s : State) (c : Nat) (f : Core → Core) : (State.modCore s c f).mem = s.mem := by
  unfold State.modCore; split <;> rfl
@[simp] theorem State.modCore_flagged (s : State) (c : Nat) (f : Core → Core) : (State.modCore s c f).flagged = s.flagged := by
  unfold State.modCore; split <;> rfl
@[simp] theorem State.modCore_free (s : State) (c : Nat) (f : Core → Core) : (State.modCore s c f).free = s.free := by
  unfold State.modCore; split <;> rfl
@[simp] theorem State.modCore_pending (s : State) (c : Nat) (f : Core → Core) : (State.modCore s c f).pending = s.pending := by
  unfold State.modCore; split <;> rfl
@[simp] theorem State.modCore_pkts (s : State) (c : Nat) (f : Core → Core) : (State.modCore s c f).blk.pkts = s.blk.pkts := by
  unfold State.modCore; split <;> rfl
@[simp] theorem State.modCore_xfers (s : State) (c : Nat) (f : Core → Core) : (State.modCore s c f).blk.xfers = s.blk.xfers := by
  unfold State.modCore; split <;> rfl
@[simp] theorem State.modCore_ports (s : State) (c : Nat) (f : Core → Core) : (State.modCore s c f).blk.ports = s.blk.ports := by
  unfold State.modCore; split <;> rfl
@[simp] theorem State.modCore_replies (s : State) (c : Nat) (f : Core → Core) : (State.modCore s c f).blk.replies = s.blk.replies := by
  unfold State.modCore; split <;> rfl
@[simp] theorem State.modCore_saddle (s : State) (c : Nat) (f : Core → Core) : (State.modCore s c f).blk.saddle = s.blk.saddle := by
  unfold State.modCore; split <;> rfl
@[simp] theorem State.modCore_served (s : State) (c : Nat) (f : Core → Core) : (State.modCore s c f).blk.served = s.blk.served := by
  unfold State.modCore; split <;> rfl
@[simp] theorem State.modCore_west (s : State) (c : Nat) (f : Core → Core) : (State.modCore s c f).blk.west = s.blk.west := by
  unfold State.modCore; split <;> rfl
@[simp] theorem State.modCore_east (s : State) (c : Nat) (f : Core → Core) : (State.modCore s c f).blk.east = s.blk.east := by
  unfold State.modCore; split <;> rfl
@[simp] theorem State.modCore_nextPk (s : State) (c : Nat) (f : Core → Core) : (State.modCore s c f).blk.nextPk = s.blk.nextPk := by
  unfold State.modCore; split <;> rfl


/-! `State.modHp` -/
@[simp] theorem State.modHp_cfg (s : State) (p : Nat) (f : HostPort → HostPort) : (State.modHp s p f).cfg = s.cfg := rfl
@[simp] theorem State.modHp_pins (s : State) (p : Nat) (f : HostPort → HostPort) : (State.modHp s p f).pins = s.pins := rfl
@[simp] theorem State.modHp_aon (s : State) (p : Nat) (f : HostPort → HostPort) : (State.modHp s p f).aon = s.aon := rfl
@[simp] theorem State.modHp_mem (s : State) (p : Nat) (f : HostPort → HostPort) : (State.modHp s p f).mem = s.mem := rfl
@[simp] theorem State.modHp_flagged (s : State) (p : Nat) (f : HostPort → HostPort) : (State.modHp s p f).flagged = s.flagged := rfl
@[simp] theorem State.modHp_free (s : State) (p : Nat) (f : HostPort → HostPort) : (State.modHp s p f).free = s.free := rfl
@[simp] theorem State.modHp_pending (s : State) (p : Nat) (f : HostPort → HostPort) : (State.modHp s p f).pending = s.pending := rfl
@[simp] theorem State.modHp_blk (s : State) (p : Nat) (f : HostPort → HostPort) : (State.modHp s p f).blk = s.blk := rfl


/-! `State.modCp` -/
@[simp] theorem State.modCp_cfg (s : State) (h : Half) (f : Cp → Cp) : (State.modCp s h f).cfg = s.cfg := by
  unfold State.modCp; split <;> rfl
@[simp] theorem State.modCp_pins (s : State) (h : Half) (f : Cp → Cp) : (State.modCp s h f).pins = s.pins := by
  unfold State.modCp; split <;> rfl
@[simp] theorem State.modCp_aon (s : State) (h : Half) (f : Cp → Cp) : (State.modCp s h f).aon = s.aon := by
  unfold State.modCp; split <;> rfl
@[simp] theorem State.modCp_hp (s : State) (h : Half) (f : Cp → Cp) : (State.modCp s h f).hp = s.hp := by
  unfold State.modCp; split <;> rfl
@[simp] theorem State.modCp_mem (s : State) (h : Half) (f : Cp → Cp) : (State.modCp s h f).mem = s.mem := by
  unfold State.modCp; split <;> rfl
@[simp] theorem State.modCp_flagged (s : State) (h : Half) (f : Cp → Cp) : (State.modCp s h f).flagged = s.flagged := by
  unfold State.modCp; split <;> rfl
@[simp] theorem State.modCp_free (s : State) (h : Half) (f : Cp → Cp) : (State.modCp s h f).free = s.free := by
  unfold State.modCp; split <;> rfl
@[simp] theorem State.modCp_pending (s : State) (h : Half) (f : Cp → Cp) : (State.modCp s h f).pending = s.pending := by
  unfold State.modCp; split <;> rfl
@[simp] theorem State.modCp_cores (s : State) (h : Half) (f : Cp → Cp) : (State.modCp s h f).blk.cores = s.blk.cores := by
  unfold State.modCp; split <;> rfl
@[simp] theorem State.modCp_pkts (s : State) (h : Half) (f : Cp → Cp) : (State.modCp s h f).blk.pkts = s.blk.pkts := by
  unfold State.modCp; split <;> rfl
@[simp] theorem State.modCp_xfers (s : State) (h : Half) (f : Cp → Cp) : (State.modCp s h f).blk.xfers = s.blk.xfers := by
  unfold State.modCp; split <;> rfl
@[simp] theorem State.modCp_ports (s : State) (h : Half) (f : Cp → Cp) : (State.modCp s h f).blk.ports = s.blk.ports := by
  unfold State.modCp; split <;> rfl
@[simp] theorem State.modCp_replies (s : State) (h : Half) (f : Cp → Cp) : (State.modCp s h f).blk.replies = s.blk.replies := by
  unfold State.modCp; split <;> rfl
@[simp] theorem State.modCp_saddle (s : State) (h : Half) (f : Cp → Cp) : (State.modCp s h f).blk.saddle = s.blk.saddle := by
  unfold State.modCp; split <;> rfl
@[simp] theorem State.modCp_served (s : State) (h : Half) (f : Cp → Cp) : (State.modCp s h f).blk.served = s.blk.served := by
  unfold State.modCp; split <;> rfl
@[simp] theorem State.modCp_nextPk (s : State) (h : Half) (f : Cp → Cp) : (State.modCp s h f).blk.nextPk = s.blk.nextPk := by
  unfold State.modCp; split <;> rfl


/-! `State.setRole` -/
@[simp] theorem State.setRole_cfg (s : State) (h : Half) (r : Role) : (State.setRole s h r).cfg = s.cfg := by
  unfold State.setRole; split <;> rfl
@[simp] theorem State.setRole_pins (s : State) (h : Half) (r : Role) : (State.setRole s h r).pins = s.pins := by
  unfold State.setRole; split <;> rfl
@[simp] theorem State.setRole_hp (s : State) (h : Half) (r : Role) : (State.setRole s h r).hp = s.hp := by
  unfold State.setRole; split <;> rfl
@[simp] theorem State.setRole_mem (s : State) (h : Half) (r : Role) : (State.setRole s h r).mem = s.mem := by
  unfold State.setRole; split <;> rfl
@[simp] theorem State.setRole_flagged (s : State) (h : Half) (r : Role) : (State.setRole s h r).flagged = s.flagged := by
  unfold State.setRole; split <;> rfl
@[simp] theorem State.setRole_free (s : State) (h : Half) (r : Role) : (State.setRole s h r).free = s.free := by
  unfold State.setRole; split <;> rfl
@[simp] theorem State.setRole_pending (s : State) (h : Half) (r : Role) : (State.setRole s h r).pending = s.pending := by
  unfold State.setRole; split <;> rfl
@[simp] theorem State.setRole_blk (s : State) (h : Half) (r : Role) : (State.setRole s h r).blk = s.blk := by
  unfold State.setRole; split <;> rfl
@[simp] theorem State.setRole_doms (s : State) (h : Half) (r : Role) : (State.setRole s h r).aon.doms = s.aon.doms := by
  unfold State.setRole; split <;> rfl
@[simp] theorem State.setRole_power (s : State) (h : Half) (r : Role) : (State.setRole s h r).aon.power = s.aon.power := by
  unfold State.setRole; split <;> rfl
@[simp] theorem State.setRole_fuses (s : State) (h : Half) (r : Role) : (State.setRole s h r).aon.fuses = s.aon.fuses := by
  unfold State.setRole; split <;> rfl
@[simp] theorem State.setRole_policy (s : State) (h : Half) (r : Role) : (State.setRole s h r).aon.policy = s.aon.policy := by
  unfold State.setRole; split <;> rfl
@[simp] theorem State.setRole_sealed (s : State) (h : Half) (r : Role) : (State.setRole s h r).aon.sealed = s.aon.sealed := by
  unfold State.setRole; split <;> rfl
@[simp] theorem State.setRole_time (s : State) (h : Half) (r : Role) : (State.setRole s h r).aon.time = s.aon.time := by
  unfold State.setRole; split <;> rfl
@[simp] theorem State.setRole_phase (s : State) (h : Half) (r : Role) : (State.setRole s h r).aon.phase = s.aon.phase := by
  unfold State.setRole; split <;> rfl
@[simp] theorem State.setRole_listA (s : State) (h : Half) (r : Role) : (State.setRole s h r).aon.listA = s.aon.listA := by
  unfold State.setRole; split <;> rfl


/-! `State.setEpoch` -/
@[simp] theorem State.setEpoch_cfg (s : State) (h : Half) (e : BitVec 16) : (State.setEpoch s h e).cfg = s.cfg := by
  unfold State.setEpoch; split <;> rfl
@[simp] theorem State.setEpoch_pins (s : State) (h : Half) (e : BitVec 16) : (State.setEpoch s h e).pins = s.pins := by
  unfold State.setEpoch; split <;> rfl
@[simp] theorem State.setEpoch_hp (s : State) (h : Half) (e : BitVec 16) : (State.setEpoch s h e).hp = s.hp := by
  unfold State.setEpoch; split <;> rfl
@[simp] theorem State.setEpoch_mem (s : State) (h : Half) (e : BitVec 16) : (State.setEpoch s h e).mem = s.mem := by
  unfold State.setEpoch; split <;> rfl
@[simp] theorem State.setEpoch_flagged (s : State) (h : Half) (e : BitVec 16) : (State.setEpoch s h e).flagged = s.flagged := by
  unfold State.setEpoch; split <;> rfl
@[simp] theorem State.setEpoch_free (s : State) (h : Half) (e : BitVec 16) : (State.setEpoch s h e).free = s.free := by
  unfold State.setEpoch; split <;> rfl
@[simp] theorem State.setEpoch_pending (s : State) (h : Half) (e : BitVec 16) : (State.setEpoch s h e).pending = s.pending := by
  unfold State.setEpoch; split <;> rfl
@[simp] theorem State.setEpoch_blk (s : State) (h : Half) (e : BitVec 16) : (State.setEpoch s h e).blk = s.blk := by
  unfold State.setEpoch; split <;> rfl
@[simp] theorem State.setEpoch_doms (s : State) (h : Half) (e : BitVec 16) : (State.setEpoch s h e).aon.doms = s.aon.doms := by
  unfold State.setEpoch; split <;> rfl
@[simp] theorem State.setEpoch_power (s : State) (h : Half) (e : BitVec 16) : (State.setEpoch s h e).aon.power = s.aon.power := by
  unfold State.setEpoch; split <;> rfl
@[simp] theorem State.setEpoch_fuses (s : State) (h : Half) (e : BitVec 16) : (State.setEpoch s h e).aon.fuses = s.aon.fuses := by
  unfold State.setEpoch; split <;> rfl
@[simp] theorem State.setEpoch_policy (s : State) (h : Half) (e : BitVec 16) : (State.setEpoch s h e).aon.policy = s.aon.policy := by
  unfold State.setEpoch; split <;> rfl
@[simp] theorem State.setEpoch_sealed (s : State) (h : Half) (e : BitVec 16) : (State.setEpoch s h e).aon.sealed = s.aon.sealed := by
  unfold State.setEpoch; split <;> rfl
@[simp] theorem State.setEpoch_time (s : State) (h : Half) (e : BitVec 16) : (State.setEpoch s h e).aon.time = s.aon.time := by
  unfold State.setEpoch; split <;> rfl
@[simp] theorem State.setEpoch_phase (s : State) (h : Half) (e : BitVec 16) : (State.setEpoch s h e).aon.phase = s.aon.phase := by
  unfold State.setEpoch; split <;> rfl
@[simp] theorem State.setEpoch_listA (s : State) (h : Half) (e : BitVec 16) : (State.setEpoch s h e).aon.listA = s.aon.listA := by
  unfold State.setEpoch; split <;> rfl


/-! `State.setDom` -/
@[simp] theorem State.setDom_cfg (s : State) (d : Nat) (x : Dom) : (State.setDom s d x).cfg = s.cfg := rfl
@[simp] theorem State.setDom_pins (s : State) (d : Nat) (x : Dom) : (State.setDom s d x).pins = s.pins := rfl
@[simp] theorem State.setDom_hp (s : State) (d : Nat) (x : Dom) : (State.setDom s d x).hp = s.hp := rfl
@[simp] theorem State.setDom_mem (s : State) (d : Nat) (x : Dom) : (State.setDom s d x).mem = s.mem := rfl
@[simp] theorem State.setDom_flagged (s : State) (d : Nat) (x : Dom) : (State.setDom s d x).flagged = s.flagged := rfl
@[simp] theorem State.setDom_free (s : State) (d : Nat) (x : Dom) : (State.setDom s d x).free = s.free := rfl
@[simp] theorem State.setDom_pending (s : State) (d : Nat) (x : Dom) : (State.setDom s d x).pending = s.pending := rfl
@[simp] theorem State.setDom_blk (s : State) (d : Nat) (x : Dom) : (State.setDom s d x).blk = s.blk := rfl
@[simp] theorem State.setDom_power (s : State) (d : Nat) (x : Dom) : (State.setDom s d x).aon.power = s.aon.power := rfl
@[simp] theorem State.setDom_fuses (s : State) (d : Nat) (x : Dom) : (State.setDom s d x).aon.fuses = s.aon.fuses := rfl
@[simp] theorem State.setDom_policy (s : State) (d : Nat) (x : Dom) : (State.setDom s d x).aon.policy = s.aon.policy := rfl
@[simp] theorem State.setDom_sealed (s : State) (d : Nat) (x : Dom) : (State.setDom s d x).aon.sealed = s.aon.sealed := rfl
@[simp] theorem State.setDom_time (s : State) (d : Nat) (x : Dom) : (State.setDom s d x).aon.time = s.aon.time := rfl
@[simp] theorem State.setDom_phase (s : State) (d : Nat) (x : Dom) : (State.setDom s d x).aon.phase = s.aon.phase := rfl
@[simp] theorem State.setDom_listA (s : State) (d : Nat) (x : Dom) : (State.setDom s d x).aon.listA = s.aon.listA := rfl


/-! `State.startDom` -/
@[simp] theorem State.startDom_cfg (s : State) (d : Nat) (goal : Rest) (us : Nat) : (State.startDom s d goal us).cfg = s.cfg := rfl
@[simp] theorem State.startDom_pins (s : State) (d : Nat) (goal : Rest) (us : Nat) : (State.startDom s d goal us).pins = s.pins := rfl
@[simp] theorem State.startDom_hp (s : State) (d : Nat) (goal : Rest) (us : Nat) : (State.startDom s d goal us).hp = s.hp := rfl
@[simp] theorem State.startDom_mem (s : State) (d : Nat) (goal : Rest) (us : Nat) : (State.startDom s d goal us).mem = s.mem := rfl
@[simp] theorem State.startDom_flagged (s : State) (d : Nat) (goal : Rest) (us : Nat) : (State.startDom s d goal us).flagged = s.flagged := rfl
@[simp] theorem State.startDom_free (s : State) (d : Nat) (goal : Rest) (us : Nat) : (State.startDom s d goal us).free = s.free := rfl
@[simp] theorem State.startDom_pending (s : State) (d : Nat) (goal : Rest) (us : Nat) : (State.startDom s d goal us).pending = s.pending := rfl
@[simp] theorem State.startDom_blk (s : State) (d : Nat) (goal : Rest) (us : Nat) : (State.startDom s d goal us).blk = s.blk := rfl
@[simp] theorem State.startDom_power (s : State) (d : Nat) (goal : Rest) (us : Nat) : (State.startDom s d goal us).aon.power = s.aon.power := rfl
@[simp] theorem State.startDom_fuses (s : State) (d : Nat) (goal : Rest) (us : Nat) : (State.startDom s d goal us).aon.fuses = s.aon.fuses := rfl
@[simp] theorem State.startDom_policy (s : State) (d : Nat) (goal : Rest) (us : Nat) : (State.startDom s d goal us).aon.policy = s.aon.policy := rfl
@[simp] theorem State.startDom_sealed (s : State) (d : Nat) (goal : Rest) (us : Nat) : (State.startDom s d goal us).aon.sealed = s.aon.sealed := rfl
@[simp] theorem State.startDom_time (s : State) (d : Nat) (goal : Rest) (us : Nat) : (State.startDom s d goal us).aon.time = s.aon.time := rfl
@[simp] theorem State.startDom_phase (s : State) (d : Nat) (goal : Rest) (us : Nat) : (State.startDom s d goal us).aon.phase = s.aon.phase := rfl
@[simp] theorem State.startDom_listA (s : State) (d : Nat) (goal : Rest) (us : Nat) : (State.startDom s d goal us).aon.listA = s.aon.listA := rfl


/-! `State.post` -/
@[simp] theorem State.post_cfg (s : State) (dest : Half) (m : Msg) : (State.post s dest m).cfg = s.cfg := rfl
@[simp] theorem State.post_pins (s : State) (dest : Half) (m : Msg) : (State.post s dest m).pins = s.pins := rfl
@[simp] theorem State.post_aon (s : State) (dest : Half) (m : Msg) : (State.post s dest m).aon = s.aon := rfl
@[simp] theorem State.post_hp (s : State) (dest : Half) (m : Msg) : (State.post s dest m).hp = s.hp := rfl
@[simp] theorem State.post_mem (s : State) (dest : Half) (m : Msg) : (State.post s dest m).mem = s.mem := rfl
@[simp] theorem State.post_flagged (s : State) (dest : Half) (m : Msg) : (State.post s dest m).flagged = s.flagged := rfl
@[simp] theorem State.post_free (s : State) (dest : Half) (m : Msg) : (State.post s dest m).free = s.free := rfl
@[simp] theorem State.post_pending (s : State) (dest : Half) (m : Msg) : (State.post s dest m).pending = s.pending := rfl
@[simp] theorem State.post_cores (s : State) (dest : Half) (m : Msg) : (State.post s dest m).blk.cores = s.blk.cores := rfl
@[simp] theorem State.post_pkts (s : State) (dest : Half) (m : Msg) : (State.post s dest m).blk.pkts = s.blk.pkts := rfl
@[simp] theorem State.post_xfers (s : State) (dest : Half) (m : Msg) : (State.post s dest m).blk.xfers = s.blk.xfers := rfl
@[simp] theorem State.post_ports (s : State) (dest : Half) (m : Msg) : (State.post s dest m).blk.ports = s.blk.ports := rfl
@[simp] theorem State.post_replies (s : State) (dest : Half) (m : Msg) : (State.post s dest m).blk.replies = s.blk.replies := rfl
@[simp] theorem State.post_served (s : State) (dest : Half) (m : Msg) : (State.post s dest m).blk.served = s.blk.served := rfl
@[simp] theorem State.post_west (s : State) (dest : Half) (m : Msg) : (State.post s dest m).blk.west = s.blk.west := rfl
@[simp] theorem State.post_east (s : State) (dest : Half) (m : Msg) : (State.post s dest m).blk.east = s.blk.east := rfl
@[simp] theorem State.post_nextPk (s : State) (dest : Half) (m : Msg) : (State.post s dest m).blk.nextPk = s.blk.nextPk := rfl


/-! `State.changeTs` -/
@[simp] theorem State.changeTs_cfg (s : State) (f : TState → TState) : (State.changeTs s f).cfg = s.cfg := by
  unfold State.changeTs; split <;> simp
@[simp] theorem State.changeTs_pins (s : State) (f : TState → TState) : (State.changeTs s f).pins = s.pins := by
  unfold State.changeTs; split <;> simp
@[simp] theorem State.changeTs_aon (s : State) (f : TState → TState) : (State.changeTs s f).aon = s.aon := by
  unfold State.changeTs; split <;> simp
@[simp] theorem State.changeTs_hp (s : State) (f : TState → TState) : (State.changeTs s f).hp = s.hp := by
  unfold State.changeTs; split <;> simp
@[simp] theorem State.changeTs_mem (s : State) (f : TState → TState) : (State.changeTs s f).mem = s.mem := by
  unfold State.changeTs; split <;> simp
@[simp] theorem State.changeTs_flagged (s : State) (f : TState → TState) : (State.changeTs s f).flagged = s.flagged := by
  unfold State.changeTs; split <;> simp
@[simp] theorem State.changeTs_free (s : State) (f : TState → TState) : (State.changeTs s f).free = s.free := by
  unfold State.changeTs; split <;> simp
@[simp] theorem State.changeTs_pending (s : State) (f : TState → TState) : (State.changeTs s f).pending = s.pending := by
  unfold State.changeTs; split <;> simp
@[simp] theorem State.changeTs_cores (s : State) (f : TState → TState) : (State.changeTs s f).blk.cores = s.blk.cores := by
  unfold State.changeTs; split <;> simp
@[simp] theorem State.changeTs_pkts (s : State) (f : TState → TState) : (State.changeTs s f).blk.pkts = s.blk.pkts := by
  unfold State.changeTs; split <;> simp
@[simp] theorem State.changeTs_xfers (s : State) (f : TState → TState) : (State.changeTs s f).blk.xfers = s.blk.xfers := by
  unfold State.changeTs; split <;> simp
@[simp] theorem State.changeTs_ports (s : State) (f : TState → TState) : (State.changeTs s f).blk.ports = s.blk.ports := by
  unfold State.changeTs; split <;> simp
@[simp] theorem State.changeTs_replies (s : State) (f : TState → TState) : (State.changeTs s f).blk.replies = s.blk.replies := by
  unfold State.changeTs; split <;> simp
@[simp] theorem State.changeTs_served (s : State) (f : TState → TState) : (State.changeTs s f).blk.served = s.blk.served := by
  unfold State.changeTs; split <;> simp
@[simp] theorem State.changeTs_nextPk (s : State) (f : TState → TState) : (State.changeTs s f).blk.nextPk = s.blk.nextPk := by
  unfold State.changeTs; split <;> simp


/-! `State.raiseIrq` -/
@[simp] theorem State.raiseIrq_cfg (s : State) (p i : Nat) : (State.raiseIrq s p i).cfg = s.cfg := rfl
@[simp] theorem State.raiseIrq_pins (s : State) (p i : Nat) : (State.raiseIrq s p i).pins = s.pins := rfl
@[simp] theorem State.raiseIrq_aon (s : State) (p i : Nat) : (State.raiseIrq s p i).aon = s.aon := rfl
@[simp] theorem State.raiseIrq_mem (s : State) (p i : Nat) : (State.raiseIrq s p i).mem = s.mem := rfl
@[simp] theorem State.raiseIrq_flagged (s : State) (p i : Nat) : (State.raiseIrq s p i).flagged = s.flagged := rfl
@[simp] theorem State.raiseIrq_free (s : State) (p i : Nat) : (State.raiseIrq s p i).free = s.free := rfl
@[simp] theorem State.raiseIrq_pending (s : State) (p i : Nat) : (State.raiseIrq s p i).pending = s.pending := rfl
@[simp] theorem State.raiseIrq_blk (s : State) (p i : Nat) : (State.raiseIrq s p i).blk = s.blk := rfl


/-! `State.creditBack` -/
@[simp] theorem State.creditBack_cfg (s : State) (p : Nat) : (State.creditBack s p).cfg = s.cfg := rfl
@[simp] theorem State.creditBack_pins (s : State) (p : Nat) : (State.creditBack s p).pins = s.pins := rfl
@[simp] theorem State.creditBack_aon (s : State) (p : Nat) : (State.creditBack s p).aon = s.aon := rfl
@[simp] theorem State.creditBack_mem (s : State) (p : Nat) : (State.creditBack s p).mem = s.mem := rfl
@[simp] theorem State.creditBack_flagged (s : State) (p : Nat) : (State.creditBack s p).flagged = s.flagged := rfl
@[simp] theorem State.creditBack_free (s : State) (p : Nat) : (State.creditBack s p).free = s.free := rfl
@[simp] theorem State.creditBack_pending (s : State) (p : Nat) : (State.creditBack s p).pending = s.pending := rfl
@[simp] theorem State.creditBack_blk (s : State) (p : Nat) : (State.creditBack s p).blk = s.blk := rfl


/-! `State.healthIrq` -/
@[simp] theorem State.healthIrq_cfg (s : State) (t : Nat) : (State.healthIrq s t).cfg = s.cfg := by
  exact foldl_keeps (·.cfg) _ _ _ fun _ _ => by split <;> rfl
@[simp] theorem State.healthIrq_pins (s : State) (t : Nat) : (State.healthIrq s t).pins = s.pins := by
  exact foldl_keeps (·.pins) _ _ _ fun _ _ => by split <;> rfl
@[simp] theorem State.healthIrq_aon (s : State) (t : Nat) : (State.healthIrq s t).aon = s.aon := by
  exact foldl_keeps (·.aon) _ _ _ fun _ _ => by split <;> rfl
@[simp] theorem State.healthIrq_mem (s : State) (t : Nat) : (State.healthIrq s t).mem = s.mem := by
  exact foldl_keeps (·.mem) _ _ _ fun _ _ => by split <;> rfl
@[simp] theorem State.healthIrq_flagged (s : State) (t : Nat) : (State.healthIrq s t).flagged = s.flagged := by
  exact foldl_keeps (·.flagged) _ _ _ fun _ _ => by split <;> rfl
@[simp] theorem State.healthIrq_free (s : State) (t : Nat) : (State.healthIrq s t).free = s.free := by
  exact foldl_keeps (·.free) _ _ _ fun _ _ => by split <;> rfl
@[simp] theorem State.healthIrq_pending (s : State) (t : Nat) : (State.healthIrq s t).pending = s.pending := by
  exact foldl_keeps (·.pending) _ _ _ fun _ _ => by split <;> rfl
@[simp] theorem State.healthIrq_blk (s : State) (t : Nat) : (State.healthIrq s t).blk = s.blk := by
  exact foldl_keeps (·.blk) _ _ _ fun _ _ => by split <;> rfl


/-! `State.setPkt` -/
@[simp] theorem State.setPkt_cfg (s : State) (p : Packet) : (State.setPkt s p).cfg = s.cfg := rfl
@[simp] theorem State.setPkt_pins (s : State) (p : Packet) : (State.setPkt s p).pins = s.pins := rfl
@[simp] theorem State.setPkt_aon (s : State) (p : Packet) : (State.setPkt s p).aon = s.aon := rfl
@[simp] theorem State.setPkt_hp (s : State) (p : Packet) : (State.setPkt s p).hp = s.hp := rfl
@[simp] theorem State.setPkt_mem (s : State) (p : Packet) : (State.setPkt s p).mem = s.mem := rfl
@[simp] theorem State.setPkt_flagged (s : State) (p : Packet) : (State.setPkt s p).flagged = s.flagged := rfl
@[simp] theorem State.setPkt_free (s : State) (p : Packet) : (State.setPkt s p).free = s.free := rfl
@[simp] theorem State.setPkt_pending (s : State) (p : Packet) : (State.setPkt s p).pending = s.pending := rfl
@[simp] theorem State.setPkt_cores (s : State) (p : Packet) : (State.setPkt s p).blk.cores = s.blk.cores := rfl
@[simp] theorem State.setPkt_xfers (s : State) (p : Packet) : (State.setPkt s p).blk.xfers = s.blk.xfers := rfl
@[simp] theorem State.setPkt_ports (s : State) (p : Packet) : (State.setPkt s p).blk.ports = s.blk.ports := rfl
@[simp] theorem State.setPkt_replies (s : State) (p : Packet) : (State.setPkt s p).blk.replies = s.blk.replies := rfl
@[simp] theorem State.setPkt_saddle (s : State) (p : Packet) : (State.setPkt s p).blk.saddle = s.blk.saddle := rfl
@[simp] theorem State.setPkt_served (s : State) (p : Packet) : (State.setPkt s p).blk.served = s.blk.served := rfl
@[simp] theorem State.setPkt_west (s : State) (p : Packet) : (State.setPkt s p).blk.west = s.blk.west := rfl
@[simp] theorem State.setPkt_east (s : State) (p : Packet) : (State.setPkt s p).blk.east = s.blk.east := rfl
@[simp] theorem State.setPkt_nextPk (s : State) (p : Packet) : (State.setPkt s p).blk.nextPk = s.blk.nextPk := rfl


/-! `State.dropPkt` -/
@[simp] theorem State.dropPkt_cfg (s : State) (id : Nat) : (State.dropPkt s id).cfg = s.cfg := rfl
@[simp] theorem State.dropPkt_pins (s : State) (id : Nat) : (State.dropPkt s id).pins = s.pins := rfl
@[simp] theorem State.dropPkt_aon (s : State) (id : Nat) : (State.dropPkt s id).aon = s.aon := rfl
@[simp] theorem State.dropPkt_hp (s : State) (id : Nat) : (State.dropPkt s id).hp = s.hp := rfl
@[simp] theorem State.dropPkt_mem (s : State) (id : Nat) : (State.dropPkt s id).mem = s.mem := rfl
@[simp] theorem State.dropPkt_flagged (s : State) (id : Nat) : (State.dropPkt s id).flagged = s.flagged := rfl
@[simp] theorem State.dropPkt_free (s : State) (id : Nat) : (State.dropPkt s id).free = s.free := rfl
@[simp] theorem State.dropPkt_pending (s : State) (id : Nat) : (State.dropPkt s id).pending = s.pending := rfl
@[simp] theorem State.dropPkt_cores (s : State) (id : Nat) : (State.dropPkt s id).blk.cores = s.blk.cores := rfl
@[simp] theorem State.dropPkt_xfers (s : State) (id : Nat) : (State.dropPkt s id).blk.xfers = s.blk.xfers := rfl
@[simp] theorem State.dropPkt_ports (s : State) (id : Nat) : (State.dropPkt s id).blk.ports = s.blk.ports := rfl
@[simp] theorem State.dropPkt_replies (s : State) (id : Nat) : (State.dropPkt s id).blk.replies = s.blk.replies := rfl
@[simp] theorem State.dropPkt_saddle (s : State) (id : Nat) : (State.dropPkt s id).blk.saddle = s.blk.saddle := rfl
@[simp] theorem State.dropPkt_served (s : State) (id : Nat) : (State.dropPkt s id).blk.served = s.blk.served := rfl
@[simp] theorem State.dropPkt_west (s : State) (id : Nat) : (State.dropPkt s id).blk.west = s.blk.west := rfl
@[simp] theorem State.dropPkt_east (s : State) (id : Nat) : (State.dropPkt s id).blk.east = s.blk.east := rfl
@[simp] theorem State.dropPkt_nextPk (s : State) (id : Nat) : (State.dropPkt s id).blk.nextPk = s.blk.nextPk := rfl


/-! `State.unholdCore` -/
@[simp] theorem State.unholdCore_cfg (s : State) (c : Nat) : (State.unholdCore s c).cfg = s.cfg := by
  simp [State.unholdCore]
@[simp] theorem State.unholdCore_pins (s : State) (c : Nat) : (State.unholdCore s c).pins = s.pins := by
  simp [State.unholdCore]
@[simp] theorem State.unholdCore_aon (s : State) (c : Nat) : (State.unholdCore s c).aon = s.aon := by
  simp [State.unholdCore]
@[simp] theorem State.unholdCore_hp (s : State) (c : Nat) : (State.unholdCore s c).hp = s.hp := by
  simp [State.unholdCore]
@[simp] theorem State.unholdCore_mem (s : State) (c : Nat) : (State.unholdCore s c).mem = s.mem := by
  simp [State.unholdCore]
@[simp] theorem State.unholdCore_flagged (s : State) (c : Nat) : (State.unholdCore s c).flagged = s.flagged := by
  simp [State.unholdCore]
@[simp] theorem State.unholdCore_free (s : State) (c : Nat) : (State.unholdCore s c).free = s.free := by
  simp [State.unholdCore]
@[simp] theorem State.unholdCore_pending (s : State) (c : Nat) : (State.unholdCore s c).pending = s.pending := by
  simp [State.unholdCore]
@[simp] theorem State.unholdCore_pkts (s : State) (c : Nat) : (State.unholdCore s c).blk.pkts = s.blk.pkts := by
  simp [State.unholdCore]
@[simp] theorem State.unholdCore_xfers (s : State) (c : Nat) : (State.unholdCore s c).blk.xfers = s.blk.xfers := by
  simp [State.unholdCore]
@[simp] theorem State.unholdCore_ports (s : State) (c : Nat) : (State.unholdCore s c).blk.ports = s.blk.ports := by
  simp [State.unholdCore]
@[simp] theorem State.unholdCore_replies (s : State) (c : Nat) : (State.unholdCore s c).blk.replies = s.blk.replies := by
  simp [State.unholdCore]
@[simp] theorem State.unholdCore_saddle (s : State) (c : Nat) : (State.unholdCore s c).blk.saddle = s.blk.saddle := by
  simp [State.unholdCore]
@[simp] theorem State.unholdCore_served (s : State) (c : Nat) : (State.unholdCore s c).blk.served = s.blk.served := by
  simp [State.unholdCore]
@[simp] theorem State.unholdCore_west (s : State) (c : Nat) : (State.unholdCore s c).blk.west = s.blk.west := by
  simp [State.unholdCore]
@[simp] theorem State.unholdCore_east (s : State) (c : Nat) : (State.unholdCore s c).blk.east = s.blk.east := by
  simp [State.unholdCore]
@[simp] theorem State.unholdCore_nextPk (s : State) (c : Nat) : (State.unholdCore s c).blk.nextPk = s.blk.nextPk := by
  simp [State.unholdCore]


/-! `State.holdCore` -/
@[simp] theorem State.holdCore_cfg (s : State) (c : Nat) : (State.holdCore s c).cfg = s.cfg := by
  simp [State.holdCore]
@[simp] theorem State.holdCore_pins (s : State) (c : Nat) : (State.holdCore s c).pins = s.pins := by
  simp [State.holdCore]
@[simp] theorem State.holdCore_aon (s : State) (c : Nat) : (State.holdCore s c).aon = s.aon := by
  simp [State.holdCore]
@[simp] theorem State.holdCore_hp (s : State) (c : Nat) : (State.holdCore s c).hp = s.hp := by
  simp [State.holdCore]
@[simp] theorem State.holdCore_mem (s : State) (c : Nat) : (State.holdCore s c).mem = s.mem := by
  simp [State.holdCore]
@[simp] theorem State.holdCore_flagged (s : State) (c : Nat) : (State.holdCore s c).flagged = s.flagged := by
  simp [State.holdCore]
@[simp] theorem State.holdCore_free (s : State) (c : Nat) : (State.holdCore s c).free = s.free := by
  simp [State.holdCore]
@[simp] theorem State.holdCore_pending (s : State) (c : Nat) : (State.holdCore s c).pending = s.pending := by
  simp [State.holdCore]
@[simp] theorem State.holdCore_pkts (s : State) (c : Nat) : (State.holdCore s c).blk.pkts = s.blk.pkts := by
  simp [State.holdCore]
@[simp] theorem State.holdCore_xfers (s : State) (c : Nat) : (State.holdCore s c).blk.xfers = s.blk.xfers := by
  simp [State.holdCore]
@[simp] theorem State.holdCore_ports (s : State) (c : Nat) : (State.holdCore s c).blk.ports = s.blk.ports := by
  simp [State.holdCore]
@[simp] theorem State.holdCore_replies (s : State) (c : Nat) : (State.holdCore s c).blk.replies = s.blk.replies := by
  simp [State.holdCore]
@[simp] theorem State.holdCore_saddle (s : State) (c : Nat) : (State.holdCore s c).blk.saddle = s.blk.saddle := by
  simp [State.holdCore]
@[simp] theorem State.holdCore_served (s : State) (c : Nat) : (State.holdCore s c).blk.served = s.blk.served := by
  simp [State.holdCore]
@[simp] theorem State.holdCore_west (s : State) (c : Nat) : (State.holdCore s c).blk.west = s.blk.west := by
  simp [State.holdCore]
@[simp] theorem State.holdCore_east (s : State) (c : Nat) : (State.holdCore s c).blk.east = s.blk.east := by
  simp [State.holdCore]
@[simp] theorem State.holdCore_nextPk (s : State) (c : Nat) : (State.holdCore s c).blk.nextPk = s.blk.nextPk := by
  simp [State.holdCore]


/-! `State.letGo` -/
@[simp] theorem State.letGo_cfg (s : State) (id : Nat) (cs : List Nat) : (State.letGo s id cs).cfg = s.cfg := by
  unfold State.letGo
  exact foldl_keeps (fun s => s.cfg) cs _ s fun s c => by split <;> simp
@[simp] theorem State.letGo_pins (s : State) (id : Nat) (cs : List Nat) : (State.letGo s id cs).pins = s.pins := by
  unfold State.letGo
  exact foldl_keeps (fun s => s.pins) cs _ s fun s c => by split <;> simp
@[simp] theorem State.letGo_aon (s : State) (id : Nat) (cs : List Nat) : (State.letGo s id cs).aon = s.aon := by
  unfold State.letGo
  exact foldl_keeps (fun s => s.aon) cs _ s fun s c => by split <;> simp
@[simp] theorem State.letGo_hp (s : State) (id : Nat) (cs : List Nat) : (State.letGo s id cs).hp = s.hp := by
  unfold State.letGo
  exact foldl_keeps (fun s => s.hp) cs _ s fun s c => by split <;> simp
@[simp] theorem State.letGo_mem (s : State) (id : Nat) (cs : List Nat) : (State.letGo s id cs).mem = s.mem := by
  unfold State.letGo
  exact foldl_keeps (fun s => s.mem) cs _ s fun s c => by split <;> simp
@[simp] theorem State.letGo_flagged (s : State) (id : Nat) (cs : List Nat) : (State.letGo s id cs).flagged = s.flagged := by
  unfold State.letGo
  exact foldl_keeps (fun s => s.flagged) cs _ s fun s c => by split <;> simp
@[simp] theorem State.letGo_free (s : State) (id : Nat) (cs : List Nat) : (State.letGo s id cs).free = s.free := by
  unfold State.letGo
  exact foldl_keeps (fun s => s.free) cs _ s fun s c => by split <;> simp
@[simp] theorem State.letGo_pending (s : State) (id : Nat) (cs : List Nat) : (State.letGo s id cs).pending = s.pending := by
  unfold State.letGo
  exact foldl_keeps (fun s => s.pending) cs _ s fun s c => by split <;> simp
@[simp] theorem State.letGo_pkts (s : State) (id : Nat) (cs : List Nat) : (State.letGo s id cs).blk.pkts = s.blk.pkts := by
  unfold State.letGo
  exact foldl_keeps (fun s => s.blk.pkts) cs _ s fun s c => by split <;> simp
@[simp] theorem State.letGo_xfers (s : State) (id : Nat) (cs : List Nat) : (State.letGo s id cs).blk.xfers = s.blk.xfers := by
  unfold State.letGo
  exact foldl_keeps (fun s => s.blk.xfers) cs _ s fun s c => by split <;> simp
@[simp] theorem State.letGo_ports (s : State) (id : Nat) (cs : List Nat) : (State.letGo s id cs).blk.ports = s.blk.ports := by
  unfold State.letGo
  exact foldl_keeps (fun s => s.blk.ports) cs _ s fun s c => by split <;> simp
@[simp] theorem State.letGo_replies (s : State) (id : Nat) (cs : List Nat) : (State.letGo s id cs).blk.replies = s.blk.replies := by
  unfold State.letGo
  exact foldl_keeps (fun s => s.blk.replies) cs _ s fun s c => by split <;> simp
@[simp] theorem State.letGo_saddle (s : State) (id : Nat) (cs : List Nat) : (State.letGo s id cs).blk.saddle = s.blk.saddle := by
  unfold State.letGo
  exact foldl_keeps (fun s => s.blk.saddle) cs _ s fun s c => by split <;> simp
@[simp] theorem State.letGo_served (s : State) (id : Nat) (cs : List Nat) : (State.letGo s id cs).blk.served = s.blk.served := by
  unfold State.letGo
  exact foldl_keeps (fun s => s.blk.served) cs _ s fun s c => by split <;> simp
@[simp] theorem State.letGo_west (s : State) (id : Nat) (cs : List Nat) : (State.letGo s id cs).blk.west = s.blk.west := by
  unfold State.letGo
  exact foldl_keeps (fun s => s.blk.west) cs _ s fun s c => by split <;> simp
@[simp] theorem State.letGo_east (s : State) (id : Nat) (cs : List Nat) : (State.letGo s id cs).blk.east = s.blk.east := by
  unfold State.letGo
  exact foldl_keeps (fun s => s.blk.east) cs _ s fun s c => by split <;> simp
@[simp] theorem State.letGo_nextPk (s : State) (id : Nat) (cs : List Nat) : (State.letGo s id cs).blk.nextPk = s.blk.nextPk := by
  unfold State.letGo
  exact foldl_keeps (fun s => s.blk.nextPk) cs _ s fun s c => by split <;> simp


/-! `State.releaseOff` -/
@[simp] theorem State.releaseOff_cfg (s : State) (p : Packet) (w0 : Word) : (State.releaseOff s p w0).cfg = s.cfg := by
  unfold State.releaseOff
  split
  · exact foldl_keeps (fun s => s.cfg) _ _ s fun s c => by split <;> simp
  · rfl
@[simp] theorem State.releaseOff_pins (s : State) (p : Packet) (w0 : Word) : (State.releaseOff s p w0).pins = s.pins := by
  unfold State.releaseOff
  split
  · exact foldl_keeps (fun s => s.pins) _ _ s fun s c => by split <;> simp
  · rfl
@[simp] theorem State.releaseOff_hp (s : State) (p : Packet) (w0 : Word) : (State.releaseOff s p w0).hp = s.hp := by
  unfold State.releaseOff
  split
  · exact foldl_keeps (fun s => s.hp) _ _ s fun s c => by split <;> simp
  · rfl
@[simp] theorem State.releaseOff_mem (s : State) (p : Packet) (w0 : Word) : (State.releaseOff s p w0).mem = s.mem := by
  unfold State.releaseOff
  split
  · exact foldl_keeps (fun s => s.mem) _ _ s fun s c => by split <;> simp
  · rfl
@[simp] theorem State.releaseOff_flagged (s : State) (p : Packet) (w0 : Word) : (State.releaseOff s p w0).flagged = s.flagged := by
  unfold State.releaseOff
  split
  · exact foldl_keeps (fun s => s.flagged) _ _ s fun s c => by split <;> simp
  · rfl
@[simp] theorem State.releaseOff_free (s : State) (p : Packet) (w0 : Word) : (State.releaseOff s p w0).free = s.free := by
  unfold State.releaseOff
  split
  · exact foldl_keeps (fun s => s.free) _ _ s fun s c => by split <;> simp
  · rfl
@[simp] theorem State.releaseOff_pending (s : State) (p : Packet) (w0 : Word) : (State.releaseOff s p w0).pending = s.pending := by
  unfold State.releaseOff
  split
  · exact foldl_keeps (fun s => s.pending) _ _ s fun s c => by split <;> simp
  · rfl
@[simp] theorem State.releaseOff_blk (s : State) (p : Packet) (w0 : Word) : (State.releaseOff s p w0).blk = s.blk := by
  unfold State.releaseOff
  split
  · exact foldl_keeps (fun s => s.blk) _ _ s fun s c => by split <;> simp
  · rfl
@[simp] theorem State.releaseOff_policy (s : State) (p : Packet) (w0 : Word) : (State.releaseOff s p w0).aon.policy = s.aon.policy := by
  unfold State.releaseOff
  split
  · exact foldl_keeps (fun s => s.aon.policy) _ _ s fun s c => by split <;> simp
  · rfl
@[simp] theorem State.releaseOff_sealed (s : State) (p : Packet) (w0 : Word) : (State.releaseOff s p w0).aon.sealed = s.aon.sealed := by
  unfold State.releaseOff
  split
  · exact foldl_keeps (fun s => s.aon.sealed) _ _ s fun s c => by split <;> simp
  · rfl
@[simp] theorem State.releaseOff_time (s : State) (p : Packet) (w0 : Word) : (State.releaseOff s p w0).aon.time = s.aon.time := by
  unfold State.releaseOff
  split
  · exact foldl_keeps (fun s => s.aon.time) _ _ s fun s c => by split <;> simp
  · rfl
@[simp] theorem State.releaseOff_phase (s : State) (p : Packet) (w0 : Word) : (State.releaseOff s p w0).aon.phase = s.aon.phase := by
  unfold State.releaseOff
  split
  · exact foldl_keeps (fun s => s.aon.phase) _ _ s fun s c => by split <;> simp
  · rfl
@[simp] theorem State.releaseOff_listA (s : State) (p : Packet) (w0 : Word) : (State.releaseOff s p w0).aon.listA = s.aon.listA := by
  unfold State.releaseOff
  split
  · exact foldl_keeps (fun s => s.aon.listA) _ _ s fun s c => by split <;> simp
  · rfl


/-! `State.finish` -/
@[simp] theorem State.finish_cfg (s : State) (p : Packet) (w0 w1 : Word) : (State.finish s p w0 w1).cfg = s.cfg := by
  unfold State.finish; dsimp only; split <;> simp
@[simp] theorem State.finish_pins (s : State) (p : Packet) (w0 w1 : Word) : (State.finish s p w0 w1).pins = s.pins := by
  unfold State.finish; dsimp only; split <;> simp
@[simp] theorem State.finish_mem (s : State) (p : Packet) (w0 w1 : Word) : (State.finish s p w0 w1).mem = s.mem := by
  unfold State.finish; dsimp only; split <;> simp
@[simp] theorem State.finish_flagged (s : State) (p : Packet) (w0 w1 : Word) : (State.finish s p w0 w1).flagged = s.flagged := by
  unfold State.finish; dsimp only; split <;> simp
@[simp] theorem State.finish_free (s : State) (p : Packet) (w0 w1 : Word) : (State.finish s p w0 w1).free = s.free := by
  unfold State.finish; dsimp only; split <;> simp
@[simp] theorem State.finish_pending (s : State) (p : Packet) (w0 w1 : Word) : (State.finish s p w0 w1).pending = s.pending := by
  unfold State.finish; dsimp only; split <;> simp
@[simp] theorem State.finish_xfers (s : State) (p : Packet) (w0 w1 : Word) : (State.finish s p w0 w1).blk.xfers = s.blk.xfers := by
  unfold State.finish; dsimp only; split <;> simp
@[simp] theorem State.finish_ports (s : State) (p : Packet) (w0 w1 : Word) : (State.finish s p w0 w1).blk.ports = s.blk.ports := by
  unfold State.finish; dsimp only; split <;> simp
@[simp] theorem State.finish_saddle (s : State) (p : Packet) (w0 w1 : Word) : (State.finish s p w0 w1).blk.saddle = s.blk.saddle := by
  unfold State.finish; dsimp only; split <;> simp
@[simp] theorem State.finish_served (s : State) (p : Packet) (w0 w1 : Word) : (State.finish s p w0 w1).blk.served = s.blk.served := by
  unfold State.finish; dsimp only; split <;> simp
@[simp] theorem State.finish_west (s : State) (p : Packet) (w0 w1 : Word) : (State.finish s p w0 w1).blk.west = s.blk.west := by
  unfold State.finish; dsimp only; split <;> simp
@[simp] theorem State.finish_east (s : State) (p : Packet) (w0 w1 : Word) : (State.finish s p w0 w1).blk.east = s.blk.east := by
  unfold State.finish; dsimp only; split <;> simp
@[simp] theorem State.finish_nextPk (s : State) (p : Packet) (w0 w1 : Word) : (State.finish s p w0 w1).blk.nextPk = s.blk.nextPk := by
  unfold State.finish; dsimp only; split <;> simp
@[simp] theorem State.finish_policy (s : State) (p : Packet) (w0 w1 : Word) : (State.finish s p w0 w1).aon.policy = s.aon.policy := by
  unfold State.finish; dsimp only; split <;> simp
@[simp] theorem State.finish_sealed (s : State) (p : Packet) (w0 w1 : Word) : (State.finish s p w0 w1).aon.sealed = s.aon.sealed := by
  unfold State.finish; dsimp only; split <;> simp
@[simp] theorem State.finish_time (s : State) (p : Packet) (w0 w1 : Word) : (State.finish s p w0 w1).aon.time = s.aon.time := by
  unfold State.finish; dsimp only; split <;> simp
@[simp] theorem State.finish_phase (s : State) (p : Packet) (w0 w1 : Word) : (State.finish s p w0 w1).aon.phase = s.aon.phase := by
  unfold State.finish; dsimp only; split <;> simp
@[simp] theorem State.finish_listA (s : State) (p : Packet) (w0 w1 : Word) : (State.finish s p w0 w1).aon.listA = s.aon.listA := by
  unfold State.finish; dsimp only; split <;> simp


/-! `State.complete` -/
@[simp] theorem State.complete_cfg (s : State) (p : Packet) (st : Status) (dkind detail : Nat) (data : Word) : (State.complete s p st dkind detail data).cfg = s.cfg := by
  simp [State.complete]
@[simp] theorem State.complete_pins (s : State) (p : Packet) (st : Status) (dkind detail : Nat) (data : Word) : (State.complete s p st dkind detail data).pins = s.pins := by
  simp [State.complete]
@[simp] theorem State.complete_mem (s : State) (p : Packet) (st : Status) (dkind detail : Nat) (data : Word) : (State.complete s p st dkind detail data).mem = s.mem := by
  simp [State.complete]
@[simp] theorem State.complete_flagged (s : State) (p : Packet) (st : Status) (dkind detail : Nat) (data : Word) : (State.complete s p st dkind detail data).flagged = s.flagged := by
  simp [State.complete]
@[simp] theorem State.complete_free (s : State) (p : Packet) (st : Status) (dkind detail : Nat) (data : Word) : (State.complete s p st dkind detail data).free = s.free := by
  simp [State.complete]
@[simp] theorem State.complete_pending (s : State) (p : Packet) (st : Status) (dkind detail : Nat) (data : Word) : (State.complete s p st dkind detail data).pending = s.pending := by
  simp [State.complete]
@[simp] theorem State.complete_xfers (s : State) (p : Packet) (st : Status) (dkind detail : Nat) (data : Word) : (State.complete s p st dkind detail data).blk.xfers = s.blk.xfers := by
  simp [State.complete]
@[simp] theorem State.complete_ports (s : State) (p : Packet) (st : Status) (dkind detail : Nat) (data : Word) : (State.complete s p st dkind detail data).blk.ports = s.blk.ports := by
  simp [State.complete]
@[simp] theorem State.complete_saddle (s : State) (p : Packet) (st : Status) (dkind detail : Nat) (data : Word) : (State.complete s p st dkind detail data).blk.saddle = s.blk.saddle := by
  simp [State.complete]
@[simp] theorem State.complete_served (s : State) (p : Packet) (st : Status) (dkind detail : Nat) (data : Word) : (State.complete s p st dkind detail data).blk.served = s.blk.served := by
  simp [State.complete]
@[simp] theorem State.complete_west (s : State) (p : Packet) (st : Status) (dkind detail : Nat) (data : Word) : (State.complete s p st dkind detail data).blk.west = s.blk.west := by
  simp [State.complete]
@[simp] theorem State.complete_east (s : State) (p : Packet) (st : Status) (dkind detail : Nat) (data : Word) : (State.complete s p st dkind detail data).blk.east = s.blk.east := by
  simp [State.complete]
@[simp] theorem State.complete_nextPk (s : State) (p : Packet) (st : Status) (dkind detail : Nat) (data : Word) : (State.complete s p st dkind detail data).blk.nextPk = s.blk.nextPk := by
  simp [State.complete]
@[simp] theorem State.complete_policy (s : State) (p : Packet) (st : Status) (dkind detail : Nat) (data : Word) : (State.complete s p st dkind detail data).aon.policy = s.aon.policy := by
  simp [State.complete]
@[simp] theorem State.complete_sealed (s : State) (p : Packet) (st : Status) (dkind detail : Nat) (data : Word) : (State.complete s p st dkind detail data).aon.sealed = s.aon.sealed := by
  simp [State.complete]
@[simp] theorem State.complete_time (s : State) (p : Packet) (st : Status) (dkind detail : Nat) (data : Word) : (State.complete s p st dkind detail data).aon.time = s.aon.time := by
  simp [State.complete]
@[simp] theorem State.complete_phase (s : State) (p : Packet) (st : Status) (dkind detail : Nat) (data : Word) : (State.complete s p st dkind detail data).aon.phase = s.aon.phase := by
  simp [State.complete]
@[simp] theorem State.complete_listA (s : State) (p : Packet) (st : Status) (dkind detail : Nat) (data : Word) : (State.complete s p st dkind detail data).aon.listA = s.aon.listA := by
  simp [State.complete]


/-! `State.mergeFrom` -/
@[simp] theorem State.mergeFrom_cfg (s : State) (h : Half) (e : LogEntry) : (State.mergeFrom s h e).cfg = s.cfg := by
  unfold State.mergeFrom; (repeat' split) <;> simp
@[simp] theorem State.mergeFrom_pins (s : State) (h : Half) (e : LogEntry) : (State.mergeFrom s h e).pins = s.pins := by
  unfold State.mergeFrom; (repeat' split) <;> simp
@[simp] theorem State.mergeFrom_aon (s : State) (h : Half) (e : LogEntry) : (State.mergeFrom s h e).aon = s.aon := by
  unfold State.mergeFrom; (repeat' split) <;> simp
@[simp] theorem State.mergeFrom_hp (s : State) (h : Half) (e : LogEntry) : (State.mergeFrom s h e).hp = s.hp := by
  unfold State.mergeFrom; (repeat' split) <;> simp
@[simp] theorem State.mergeFrom_mem (s : State) (h : Half) (e : LogEntry) : (State.mergeFrom s h e).mem = s.mem := by
  unfold State.mergeFrom; (repeat' split) <;> simp
@[simp] theorem State.mergeFrom_flagged (s : State) (h : Half) (e : LogEntry) : (State.mergeFrom s h e).flagged = s.flagged := by
  unfold State.mergeFrom; (repeat' split) <;> simp
@[simp] theorem State.mergeFrom_free (s : State) (h : Half) (e : LogEntry) : (State.mergeFrom s h e).free = s.free := by
  unfold State.mergeFrom; (repeat' split) <;> simp
@[simp] theorem State.mergeFrom_pending (s : State) (h : Half) (e : LogEntry) : (State.mergeFrom s h e).pending = s.pending := by
  unfold State.mergeFrom; (repeat' split) <;> simp
@[simp] theorem State.mergeFrom_cores (s : State) (h : Half) (e : LogEntry) : (State.mergeFrom s h e).blk.cores = s.blk.cores := by
  unfold State.mergeFrom; (repeat' split) <;> simp
@[simp] theorem State.mergeFrom_pkts (s : State) (h : Half) (e : LogEntry) : (State.mergeFrom s h e).blk.pkts = s.blk.pkts := by
  unfold State.mergeFrom; (repeat' split) <;> simp
@[simp] theorem State.mergeFrom_xfers (s : State) (h : Half) (e : LogEntry) : (State.mergeFrom s h e).blk.xfers = s.blk.xfers := by
  unfold State.mergeFrom; (repeat' split) <;> simp
@[simp] theorem State.mergeFrom_ports (s : State) (h : Half) (e : LogEntry) : (State.mergeFrom s h e).blk.ports = s.blk.ports := by
  unfold State.mergeFrom; (repeat' split) <;> simp
@[simp] theorem State.mergeFrom_replies (s : State) (h : Half) (e : LogEntry) : (State.mergeFrom s h e).blk.replies = s.blk.replies := by
  unfold State.mergeFrom; (repeat' split) <;> simp
@[simp] theorem State.mergeFrom_served (s : State) (h : Half) (e : LogEntry) : (State.mergeFrom s h e).blk.served = s.blk.served := by
  unfold State.mergeFrom; (repeat' split) <;> simp
@[simp] theorem State.mergeFrom_nextPk (s : State) (h : Half) (e : LogEntry) : (State.mergeFrom s h e).blk.nextPk = s.blk.nextPk := by
  unfold State.mergeFrom; (repeat' split) <;> simp


/-! `State.dropXfer` -/
@[simp] theorem State.dropXfer_cfg (s : State) (x : Nat) : (State.dropXfer s x).cfg = s.cfg := rfl
@[simp] theorem State.dropXfer_pins (s : State) (x : Nat) : (State.dropXfer s x).pins = s.pins := rfl
@[simp] theorem State.dropXfer_aon (s : State) (x : Nat) : (State.dropXfer s x).aon = s.aon := rfl
@[simp] theorem State.dropXfer_hp (s : State) (x : Nat) : (State.dropXfer s x).hp = s.hp := rfl
@[simp] theorem State.dropXfer_mem (s : State) (x : Nat) : (State.dropXfer s x).mem = s.mem := rfl
@[simp] theorem State.dropXfer_flagged (s : State) (x : Nat) : (State.dropXfer s x).flagged = s.flagged := rfl
@[simp] theorem State.dropXfer_free (s : State) (x : Nat) : (State.dropXfer s x).free = s.free := rfl
@[simp] theorem State.dropXfer_pending (s : State) (x : Nat) : (State.dropXfer s x).pending = s.pending := rfl
@[simp] theorem State.dropXfer_cores (s : State) (x : Nat) : (State.dropXfer s x).blk.cores = s.blk.cores := rfl
@[simp] theorem State.dropXfer_pkts (s : State) (x : Nat) : (State.dropXfer s x).blk.pkts = s.blk.pkts := rfl
@[simp] theorem State.dropXfer_ports (s : State) (x : Nat) : (State.dropXfer s x).blk.ports = s.blk.ports := rfl
@[simp] theorem State.dropXfer_replies (s : State) (x : Nat) : (State.dropXfer s x).blk.replies = s.blk.replies := rfl
@[simp] theorem State.dropXfer_saddle (s : State) (x : Nat) : (State.dropXfer s x).blk.saddle = s.blk.saddle := rfl
@[simp] theorem State.dropXfer_served (s : State) (x : Nat) : (State.dropXfer s x).blk.served = s.blk.served := rfl
@[simp] theorem State.dropXfer_west (s : State) (x : Nat) : (State.dropXfer s x).blk.west = s.blk.west := rfl
@[simp] theorem State.dropXfer_east (s : State) (x : Nat) : (State.dropXfer s x).blk.east = s.blk.east := rfl
@[simp] theorem State.dropXfer_nextPk (s : State) (x : Nat) : (State.dropXfer s x).blk.nextPk = s.blk.nextPk := rfl


/-! `State.wrFabric` -/
@[simp] theorem State.wrFabric_cfg (s : State) (bs : List (Nat × Byte)) : (State.wrFabric s bs).cfg = s.cfg := rfl
@[simp] theorem State.wrFabric_pins (s : State) (bs : List (Nat × Byte)) : (State.wrFabric s bs).pins = s.pins := rfl
@[simp] theorem State.wrFabric_aon (s : State) (bs : List (Nat × Byte)) : (State.wrFabric s bs).aon = s.aon := rfl
@[simp] theorem State.wrFabric_hp (s : State) (bs : List (Nat × Byte)) : (State.wrFabric s bs).hp = s.hp := rfl
@[simp] theorem State.wrFabric_free (s : State) (bs : List (Nat × Byte)) : (State.wrFabric s bs).free = s.free := rfl
@[simp] theorem State.wrFabric_pending (s : State) (bs : List (Nat × Byte)) : (State.wrFabric s bs).pending = s.pending := rfl
@[simp] theorem State.wrFabric_blk (s : State) (bs : List (Nat × Byte)) : (State.wrFabric s bs).blk = s.blk := rfl


/-! `State.setXfer` -/
@[simp] theorem State.setXfer_cfg (s : State) (x : Transfer) : (State.setXfer s x).cfg = s.cfg := rfl
@[simp] theorem State.setXfer_pins (s : State) (x : Transfer) : (State.setXfer s x).pins = s.pins := rfl
@[simp] theorem State.setXfer_aon (s : State) (x : Transfer) : (State.setXfer s x).aon = s.aon := rfl
@[simp] theorem State.setXfer_hp (s : State) (x : Transfer) : (State.setXfer s x).hp = s.hp := rfl
@[simp] theorem State.setXfer_mem (s : State) (x : Transfer) : (State.setXfer s x).mem = s.mem := rfl
@[simp] theorem State.setXfer_flagged (s : State) (x : Transfer) : (State.setXfer s x).flagged = s.flagged := rfl
@[simp] theorem State.setXfer_free (s : State) (x : Transfer) : (State.setXfer s x).free = s.free := rfl
@[simp] theorem State.setXfer_pending (s : State) (x : Transfer) : (State.setXfer s x).pending = s.pending := rfl
@[simp] theorem State.setXfer_cores (s : State) (x : Transfer) : (State.setXfer s x).blk.cores = s.blk.cores := rfl
@[simp] theorem State.setXfer_pkts (s : State) (x : Transfer) : (State.setXfer s x).blk.pkts = s.blk.pkts := rfl
@[simp] theorem State.setXfer_ports (s : State) (x : Transfer) : (State.setXfer s x).blk.ports = s.blk.ports := rfl
@[simp] theorem State.setXfer_replies (s : State) (x : Transfer) : (State.setXfer s x).blk.replies = s.blk.replies := rfl
@[simp] theorem State.setXfer_saddle (s : State) (x : Transfer) : (State.setXfer s x).blk.saddle = s.blk.saddle := rfl
@[simp] theorem State.setXfer_served (s : State) (x : Transfer) : (State.setXfer s x).blk.served = s.blk.served := rfl
@[simp] theorem State.setXfer_west (s : State) (x : Transfer) : (State.setXfer s x).blk.west = s.blk.west := rfl
@[simp] theorem State.setXfer_east (s : State) (x : Transfer) : (State.setXfer s x).blk.east = s.blk.east := rfl
@[simp] theorem State.setXfer_nextPk (s : State) (x : Transfer) : (State.setXfer s x).blk.nextPk = s.blk.nextPk := rfl


/-! `State.modPort` -/
@[simp] theorem State.modPort_cfg (s : State) (q : Nat) (f : MemPort → MemPort) : (State.modPort s q f).cfg = s.cfg := rfl
@[simp] theorem State.modPort_pins (s : State) (q : Nat) (f : MemPort → MemPort) : (State.modPort s q f).pins = s.pins := rfl
@[simp] theorem State.modPort_aon (s : State) (q : Nat) (f : MemPort → MemPort) : (State.modPort s q f).aon = s.aon := rfl
@[simp] theorem State.modPort_hp (s : State) (q : Nat) (f : MemPort → MemPort) : (State.modPort s q f).hp = s.hp := rfl
@[simp] theorem State.modPort_mem (s : State) (q : Nat) (f : MemPort → MemPort) : (State.modPort s q f).mem = s.mem := rfl
@[simp] theorem State.modPort_flagged (s : State) (q : Nat) (f : MemPort → MemPort) : (State.modPort s q f).flagged = s.flagged := rfl
@[simp] theorem State.modPort_free (s : State) (q : Nat) (f : MemPort → MemPort) : (State.modPort s q f).free = s.free := rfl
@[simp] theorem State.modPort_pending (s : State) (q : Nat) (f : MemPort → MemPort) : (State.modPort s q f).pending = s.pending := rfl
@[simp] theorem State.modPort_cores (s : State) (q : Nat) (f : MemPort → MemPort) : (State.modPort s q f).blk.cores = s.blk.cores := rfl
@[simp] theorem State.modPort_pkts (s : State) (q : Nat) (f : MemPort → MemPort) : (State.modPort s q f).blk.pkts = s.blk.pkts := rfl
@[simp] theorem State.modPort_xfers (s : State) (q : Nat) (f : MemPort → MemPort) : (State.modPort s q f).blk.xfers = s.blk.xfers := rfl
@[simp] theorem State.modPort_replies (s : State) (q : Nat) (f : MemPort → MemPort) : (State.modPort s q f).blk.replies = s.blk.replies := rfl
@[simp] theorem State.modPort_saddle (s : State) (q : Nat) (f : MemPort → MemPort) : (State.modPort s q f).blk.saddle = s.blk.saddle := rfl
@[simp] theorem State.modPort_served (s : State) (q : Nat) (f : MemPort → MemPort) : (State.modPort s q f).blk.served = s.blk.served := rfl
@[simp] theorem State.modPort_west (s : State) (q : Nat) (f : MemPort → MemPort) : (State.modPort s q f).blk.west = s.blk.west := rfl
@[simp] theorem State.modPort_east (s : State) (q : Nat) (f : MemPort → MemPort) : (State.modPort s q f).blk.east = s.blk.east := rfl
@[simp] theorem State.modPort_nextPk (s : State) (q : Nat) (f : MemPort → MemPort) : (State.modPort s q f).blk.nextPk = s.blk.nextPk := rfl


/-! `State.logRepair` -/
@[simp] theorem State.logRepair_cfg (s : State) (w : Word) : (State.logRepair s w).cfg = s.cfg := rfl
@[simp] theorem State.logRepair_pins (s : State) (w : Word) : (State.logRepair s w).pins = s.pins := rfl
@[simp] theorem State.logRepair_hp (s : State) (w : Word) : (State.logRepair s w).hp = s.hp := rfl
@[simp] theorem State.logRepair_mem (s : State) (w : Word) : (State.logRepair s w).mem = s.mem := rfl
@[simp] theorem State.logRepair_flagged (s : State) (w : Word) : (State.logRepair s w).flagged = s.flagged := rfl
@[simp] theorem State.logRepair_free (s : State) (w : Word) : (State.logRepair s w).free = s.free := rfl
@[simp] theorem State.logRepair_pending (s : State) (w : Word) : (State.logRepair s w).pending = s.pending := rfl
@[simp] theorem State.logRepair_blk (s : State) (w : Word) : (State.logRepair s w).blk = s.blk := rfl
@[simp] theorem State.logRepair_doms (s : State) (w : Word) : (State.logRepair s w).aon.doms = s.aon.doms := rfl
@[simp] theorem State.logRepair_power (s : State) (w : Word) : (State.logRepair s w).aon.power = s.aon.power := rfl
@[simp] theorem State.logRepair_policy (s : State) (w : Word) : (State.logRepair s w).aon.policy = s.aon.policy := rfl
@[simp] theorem State.logRepair_sealed (s : State) (w : Word) : (State.logRepair s w).aon.sealed = s.aon.sealed := rfl
@[simp] theorem State.logRepair_time (s : State) (w : Word) : (State.logRepair s w).aon.time = s.aon.time := rfl
@[simp] theorem State.logRepair_phase (s : State) (w : Word) : (State.logRepair s w).aon.phase = s.aon.phase := rfl
@[simp] theorem State.logRepair_listA (s : State) (w : Word) : (State.logRepair s w).aon.listA = s.aon.listA := rfl


/-! `State.modFuses` -/
@[simp] theorem State.modFuses_cfg (s : State) (f : Fuses → Fuses) : (State.modFuses s f).cfg = s.cfg := rfl
@[simp] theorem State.modFuses_pins (s : State) (f : Fuses → Fuses) : (State.modFuses s f).pins = s.pins := rfl
@[simp] theorem State.modFuses_hp (s : State) (f : Fuses → Fuses) : (State.modFuses s f).hp = s.hp := rfl
@[simp] theorem State.modFuses_mem (s : State) (f : Fuses → Fuses) : (State.modFuses s f).mem = s.mem := rfl
@[simp] theorem State.modFuses_flagged (s : State) (f : Fuses → Fuses) : (State.modFuses s f).flagged = s.flagged := rfl
@[simp] theorem State.modFuses_free (s : State) (f : Fuses → Fuses) : (State.modFuses s f).free = s.free := rfl
@[simp] theorem State.modFuses_pending (s : State) (f : Fuses → Fuses) : (State.modFuses s f).pending = s.pending := rfl
@[simp] theorem State.modFuses_blk (s : State) (f : Fuses → Fuses) : (State.modFuses s f).blk = s.blk := rfl
@[simp] theorem State.modFuses_doms (s : State) (f : Fuses → Fuses) : (State.modFuses s f).aon.doms = s.aon.doms := rfl
@[simp] theorem State.modFuses_power (s : State) (f : Fuses → Fuses) : (State.modFuses s f).aon.power = s.aon.power := rfl
@[simp] theorem State.modFuses_policy (s : State) (f : Fuses → Fuses) : (State.modFuses s f).aon.policy = s.aon.policy := rfl
@[simp] theorem State.modFuses_sealed (s : State) (f : Fuses → Fuses) : (State.modFuses s f).aon.sealed = s.aon.sealed := rfl
@[simp] theorem State.modFuses_time (s : State) (f : Fuses → Fuses) : (State.modFuses s f).aon.time = s.aon.time := rfl
@[simp] theorem State.modFuses_phase (s : State) (f : Fuses → Fuses) : (State.modFuses s f).aon.phase = s.aon.phase := rfl
@[simp] theorem State.modFuses_listA (s : State) (f : Fuses → Fuses) : (State.modFuses s f).aon.listA = s.aon.listA := rfl


/-! `State.modPower` -/
@[simp] theorem State.modPower_cfg (s : State) (f : Power → Power) : (State.modPower s f).cfg = s.cfg := rfl
@[simp] theorem State.modPower_pins (s : State) (f : Power → Power) : (State.modPower s f).pins = s.pins := rfl
@[simp] theorem State.modPower_hp (s : State) (f : Power → Power) : (State.modPower s f).hp = s.hp := rfl
@[simp] theorem State.modPower_mem (s : State) (f : Power → Power) : (State.modPower s f).mem = s.mem := rfl
@[simp] theorem State.modPower_flagged (s : State) (f : Power → Power) : (State.modPower s f).flagged = s.flagged := rfl
@[simp] theorem State.modPower_free (s : State) (f : Power → Power) : (State.modPower s f).free = s.free := rfl
@[simp] theorem State.modPower_pending (s : State) (f : Power → Power) : (State.modPower s f).pending = s.pending := rfl
@[simp] theorem State.modPower_blk (s : State) (f : Power → Power) : (State.modPower s f).blk = s.blk := rfl
@[simp] theorem State.modPower_doms (s : State) (f : Power → Power) : (State.modPower s f).aon.doms = s.aon.doms := rfl
@[simp] theorem State.modPower_fuses (s : State) (f : Power → Power) : (State.modPower s f).aon.fuses = s.aon.fuses := rfl
@[simp] theorem State.modPower_policy (s : State) (f : Power → Power) : (State.modPower s f).aon.policy = s.aon.policy := rfl
@[simp] theorem State.modPower_sealed (s : State) (f : Power → Power) : (State.modPower s f).aon.sealed = s.aon.sealed := rfl
@[simp] theorem State.modPower_time (s : State) (f : Power → Power) : (State.modPower s f).aon.time = s.aon.time := rfl
@[simp] theorem State.modPower_phase (s : State) (f : Power → Power) : (State.modPower s f).aon.phase = s.aon.phase := rfl
@[simp] theorem State.modPower_listA (s : State) (f : Power → Power) : (State.modPower s f).aon.listA = s.aon.listA := rfl


/-! `State.modWrap` -/
@[simp] theorem State.modWrap_cfg (s : State) (f : Wrapper → Wrapper) : (State.modWrap s f).cfg = s.cfg := rfl
@[simp] theorem State.modWrap_pins (s : State) (f : Wrapper → Wrapper) : (State.modWrap s f).pins = s.pins := rfl
@[simp] theorem State.modWrap_hp (s : State) (f : Wrapper → Wrapper) : (State.modWrap s f).hp = s.hp := rfl
@[simp] theorem State.modWrap_mem (s : State) (f : Wrapper → Wrapper) : (State.modWrap s f).mem = s.mem := rfl
@[simp] theorem State.modWrap_flagged (s : State) (f : Wrapper → Wrapper) : (State.modWrap s f).flagged = s.flagged := rfl
@[simp] theorem State.modWrap_free (s : State) (f : Wrapper → Wrapper) : (State.modWrap s f).free = s.free := rfl
@[simp] theorem State.modWrap_pending (s : State) (f : Wrapper → Wrapper) : (State.modWrap s f).pending = s.pending := rfl
@[simp] theorem State.modWrap_blk (s : State) (f : Wrapper → Wrapper) : (State.modWrap s f).blk = s.blk := rfl
@[simp] theorem State.modWrap_doms (s : State) (f : Wrapper → Wrapper) : (State.modWrap s f).aon.doms = s.aon.doms := rfl
@[simp] theorem State.modWrap_power (s : State) (f : Wrapper → Wrapper) : (State.modWrap s f).aon.power = s.aon.power := rfl
@[simp] theorem State.modWrap_fuses (s : State) (f : Wrapper → Wrapper) : (State.modWrap s f).aon.fuses = s.aon.fuses := rfl
@[simp] theorem State.modWrap_policy (s : State) (f : Wrapper → Wrapper) : (State.modWrap s f).aon.policy = s.aon.policy := rfl
@[simp] theorem State.modWrap_sealed (s : State) (f : Wrapper → Wrapper) : (State.modWrap s f).aon.sealed = s.aon.sealed := rfl
@[simp] theorem State.modWrap_time (s : State) (f : Wrapper → Wrapper) : (State.modWrap s f).aon.time = s.aon.time := rfl
@[simp] theorem State.modWrap_phase (s : State) (f : Wrapper → Wrapper) : (State.modWrap s f).aon.phase = s.aon.phase := rfl
@[simp] theorem State.modWrap_listA (s : State) (f : Wrapper → Wrapper) : (State.modWrap s f).aon.listA = s.aon.listA := rfl


/-! `State.linkUp` -/
@[simp] theorem State.linkUp_cfg (s : State) : (State.linkUp s).cfg = s.cfg := rfl
@[simp] theorem State.linkUp_pins (s : State) : (State.linkUp s).pins = s.pins := rfl
@[simp] theorem State.linkUp_hp (s : State) : (State.linkUp s).hp = s.hp := rfl
@[simp] theorem State.linkUp_mem (s : State) : (State.linkUp s).mem = s.mem := rfl
@[simp] theorem State.linkUp_flagged (s : State) : (State.linkUp s).flagged = s.flagged := rfl
@[simp] theorem State.linkUp_free (s : State) : (State.linkUp s).free = s.free := rfl
@[simp] theorem State.linkUp_pending (s : State) : (State.linkUp s).pending = s.pending := rfl
@[simp] theorem State.linkUp_blk (s : State) : (State.linkUp s).blk = s.blk := rfl
@[simp] theorem State.linkUp_doms (s : State) : (State.linkUp s).aon.doms = s.aon.doms := rfl
@[simp] theorem State.linkUp_power (s : State) : (State.linkUp s).aon.power = s.aon.power := rfl
@[simp] theorem State.linkUp_fuses (s : State) : (State.linkUp s).aon.fuses = s.aon.fuses := rfl
@[simp] theorem State.linkUp_policy (s : State) : (State.linkUp s).aon.policy = s.aon.policy := rfl
@[simp] theorem State.linkUp_sealed (s : State) : (State.linkUp s).aon.sealed = s.aon.sealed := rfl
@[simp] theorem State.linkUp_time (s : State) : (State.linkUp s).aon.time = s.aon.time := rfl
@[simp] theorem State.linkUp_phase (s : State) : (State.linkUp s).aon.phase = s.aon.phase := rfl
@[simp] theorem State.linkUp_listA (s : State) : (State.linkUp s).aon.listA = s.aon.listA := rfl


/-! `State.dropLines` -/
@[simp] theorem State.dropLines_cfg (s : State) (x : Nat) : (State.dropLines s x).cfg = s.cfg := rfl
@[simp] theorem State.dropLines_pins (s : State) (x : Nat) : (State.dropLines s x).pins = s.pins := rfl
@[simp] theorem State.dropLines_aon (s : State) (x : Nat) : (State.dropLines s x).aon = s.aon := rfl
@[simp] theorem State.dropLines_hp (s : State) (x : Nat) : (State.dropLines s x).hp = s.hp := rfl
@[simp] theorem State.dropLines_mem (s : State) (x : Nat) : (State.dropLines s x).mem = s.mem := rfl
@[simp] theorem State.dropLines_flagged (s : State) (x : Nat) : (State.dropLines s x).flagged = s.flagged := rfl
@[simp] theorem State.dropLines_free (s : State) (x : Nat) : (State.dropLines s x).free = s.free := rfl
@[simp] theorem State.dropLines_pending (s : State) (x : Nat) : (State.dropLines s x).pending = s.pending := rfl
@[simp] theorem State.dropLines_cores (s : State) (x : Nat) : (State.dropLines s x).blk.cores = s.blk.cores := rfl
@[simp] theorem State.dropLines_pkts (s : State) (x : Nat) : (State.dropLines s x).blk.pkts = s.blk.pkts := rfl
@[simp] theorem State.dropLines_xfers (s : State) (x : Nat) : (State.dropLines s x).blk.xfers = s.blk.xfers := rfl
@[simp] theorem State.dropLines_replies (s : State) (x : Nat) : (State.dropLines s x).blk.replies = s.blk.replies := rfl
@[simp] theorem State.dropLines_saddle (s : State) (x : Nat) : (State.dropLines s x).blk.saddle = s.blk.saddle := rfl
@[simp] theorem State.dropLines_served (s : State) (x : Nat) : (State.dropLines s x).blk.served = s.blk.served := rfl
@[simp] theorem State.dropLines_west (s : State) (x : Nat) : (State.dropLines s x).blk.west = s.blk.west := rfl
@[simp] theorem State.dropLines_east (s : State) (x : Nat) : (State.dropLines s x).blk.east = s.blk.east := rfl
@[simp] theorem State.dropLines_nextPk (s : State) (x : Nat) : (State.dropLines s x).blk.nextPk = s.blk.nextPk := rfl


/-! `State.mergePoison` -/
@[simp] theorem State.mergePoison_cfg (s : State) (c t : Nat) (fs : List Flight) : (State.mergePoison s c t fs).cfg = s.cfg := by
  unfold State.mergePoison
  exact foldl_keeps (fun s => s.cfg) _ _ s fun s t => by simp [State.poisonFrom]
@[simp] theorem State.mergePoison_pins (s : State) (c t : Nat) (fs : List Flight) : (State.mergePoison s c t fs).pins = s.pins := by
  unfold State.mergePoison
  exact foldl_keeps (fun s => s.pins) _ _ s fun s t => by simp [State.poisonFrom]
@[simp] theorem State.mergePoison_aon (s : State) (c t : Nat) (fs : List Flight) : (State.mergePoison s c t fs).aon = s.aon := by
  unfold State.mergePoison
  exact foldl_keeps (fun s => s.aon) _ _ s fun s t => by simp [State.poisonFrom]
@[simp] theorem State.mergePoison_hp (s : State) (c t : Nat) (fs : List Flight) : (State.mergePoison s c t fs).hp = s.hp := by
  unfold State.mergePoison
  exact foldl_keeps (fun s => s.hp) _ _ s fun s t => by simp [State.poisonFrom]
@[simp] theorem State.mergePoison_mem (s : State) (c t : Nat) (fs : List Flight) : (State.mergePoison s c t fs).mem = s.mem := by
  unfold State.mergePoison
  exact foldl_keeps (fun s => s.mem) _ _ s fun s t => by simp [State.poisonFrom]
@[simp] theorem State.mergePoison_flagged (s : State) (c t : Nat) (fs : List Flight) : (State.mergePoison s c t fs).flagged = s.flagged := by
  unfold State.mergePoison
  exact foldl_keeps (fun s => s.flagged) _ _ s fun s t => by simp [State.poisonFrom]
@[simp] theorem State.mergePoison_free (s : State) (c t : Nat) (fs : List Flight) : (State.mergePoison s c t fs).free = s.free := by
  unfold State.mergePoison
  exact foldl_keeps (fun s => s.free) _ _ s fun s t => by simp [State.poisonFrom]
@[simp] theorem State.mergePoison_pending (s : State) (c t : Nat) (fs : List Flight) : (State.mergePoison s c t fs).pending = s.pending := by
  unfold State.mergePoison
  exact foldl_keeps (fun s => s.pending) _ _ s fun s t => by simp [State.poisonFrom]
@[simp] theorem State.mergePoison_cores (s : State) (c t : Nat) (fs : List Flight) : (State.mergePoison s c t fs).blk.cores = s.blk.cores := by
  unfold State.mergePoison
  exact foldl_keeps (fun s => s.blk.cores) _ _ s fun s t => by simp [State.poisonFrom]
@[simp] theorem State.mergePoison_pkts (s : State) (c t : Nat) (fs : List Flight) : (State.mergePoison s c t fs).blk.pkts = s.blk.pkts := by
  unfold State.mergePoison
  exact foldl_keeps (fun s => s.blk.pkts) _ _ s fun s t => by simp [State.poisonFrom]
@[simp] theorem State.mergePoison_xfers (s : State) (c t : Nat) (fs : List Flight) : (State.mergePoison s c t fs).blk.xfers = s.blk.xfers := by
  unfold State.mergePoison
  exact foldl_keeps (fun s => s.blk.xfers) _ _ s fun s t => by simp [State.poisonFrom]
@[simp] theorem State.mergePoison_ports (s : State) (c t : Nat) (fs : List Flight) : (State.mergePoison s c t fs).blk.ports = s.blk.ports := by
  unfold State.mergePoison
  exact foldl_keeps (fun s => s.blk.ports) _ _ s fun s t => by simp [State.poisonFrom]
@[simp] theorem State.mergePoison_replies (s : State) (c t : Nat) (fs : List Flight) : (State.mergePoison s c t fs).blk.replies = s.blk.replies := by
  unfold State.mergePoison
  exact foldl_keeps (fun s => s.blk.replies) _ _ s fun s t => by simp [State.poisonFrom]
@[simp] theorem State.mergePoison_served (s : State) (c t : Nat) (fs : List Flight) : (State.mergePoison s c t fs).blk.served = s.blk.served := by
  unfold State.mergePoison
  exact foldl_keeps (fun s => s.blk.served) _ _ s fun s t => by simp [State.poisonFrom]
@[simp] theorem State.mergePoison_nextPk (s : State) (c t : Nat) (fs : List Flight) : (State.mergePoison s c t fs).blk.nextPk = s.blk.nextPk := by
  unfold State.mergePoison
  exact foldl_keeps (fun s => s.blk.nextPk) _ _ s fun s t => by simp [State.poisonFrom]


/-! `State.leavePoison` -/
@[simp] theorem State.leavePoison_cfg (s : State) (c : Nat) (k : Core) (fs : List Flight) : (State.leavePoison s c k fs).cfg = s.cfg := by
  unfold State.leavePoison; dsimp only; split <;> simp
@[simp] theorem State.leavePoison_pins (s : State) (c : Nat) (k : Core) (fs : List Flight) : (State.leavePoison s c k fs).pins = s.pins := by
  unfold State.leavePoison; dsimp only; split <;> simp
@[simp] theorem State.leavePoison_aon (s : State) (c : Nat) (k : Core) (fs : List Flight) : (State.leavePoison s c k fs).aon = s.aon := by
  unfold State.leavePoison; dsimp only; split <;> simp
@[simp] theorem State.leavePoison_hp (s : State) (c : Nat) (k : Core) (fs : List Flight) : (State.leavePoison s c k fs).hp = s.hp := by
  unfold State.leavePoison; dsimp only; split <;> simp
@[simp] theorem State.leavePoison_mem (s : State) (c : Nat) (k : Core) (fs : List Flight) : (State.leavePoison s c k fs).mem = s.mem := by
  unfold State.leavePoison; dsimp only; split <;> simp
@[simp] theorem State.leavePoison_flagged (s : State) (c : Nat) (k : Core) (fs : List Flight) : (State.leavePoison s c k fs).flagged = s.flagged := by
  unfold State.leavePoison; dsimp only; split <;> simp
@[simp] theorem State.leavePoison_pending (s : State) (c : Nat) (k : Core) (fs : List Flight) : (State.leavePoison s c k fs).pending = s.pending := by
  unfold State.leavePoison; dsimp only; split <;> simp
@[simp] theorem State.leavePoison_cores (s : State) (c : Nat) (k : Core) (fs : List Flight) : (State.leavePoison s c k fs).blk.cores = s.blk.cores := by
  unfold State.leavePoison; dsimp only; split <;> simp
@[simp] theorem State.leavePoison_pkts (s : State) (c : Nat) (k : Core) (fs : List Flight) : (State.leavePoison s c k fs).blk.pkts = s.blk.pkts := by
  unfold State.leavePoison; dsimp only; split <;> simp
@[simp] theorem State.leavePoison_xfers (s : State) (c : Nat) (k : Core) (fs : List Flight) : (State.leavePoison s c k fs).blk.xfers = s.blk.xfers := by
  unfold State.leavePoison; dsimp only; split <;> simp
@[simp] theorem State.leavePoison_ports (s : State) (c : Nat) (k : Core) (fs : List Flight) : (State.leavePoison s c k fs).blk.ports = s.blk.ports := by
  unfold State.leavePoison; dsimp only; split <;> simp
@[simp] theorem State.leavePoison_replies (s : State) (c : Nat) (k : Core) (fs : List Flight) : (State.leavePoison s c k fs).blk.replies = s.blk.replies := by
  unfold State.leavePoison; dsimp only; split <;> simp
@[simp] theorem State.leavePoison_served (s : State) (c : Nat) (k : Core) (fs : List Flight) : (State.leavePoison s c k fs).blk.served = s.blk.served := by
  unfold State.leavePoison; dsimp only; split <;> simp
@[simp] theorem State.leavePoison_nextPk (s : State) (c : Nat) (k : Core) (fs : List Flight) : (State.leavePoison s c k fs).blk.nextPk = s.blk.nextPk := by
  unfold State.leavePoison; dsimp only; split <;> simp


/-! `State.coreDone` -/
@[simp] theorem State.coreDone_cfg (s : State) (c : Nat) (k : Core) (status : Nat) (idx : Nat) : (State.coreDone s c k status idx).cfg = s.cfg := by
  unfold State.coreDone; dsimp only; split <;> simp
@[simp] theorem State.coreDone_pins (s : State) (c : Nat) (k : Core) (status : Nat) (idx : Nat) : (State.coreDone s c k status idx).pins = s.pins := by
  unfold State.coreDone; dsimp only; split <;> simp
@[simp] theorem State.coreDone_aon (s : State) (c : Nat) (k : Core) (status : Nat) (idx : Nat) : (State.coreDone s c k status idx).aon = s.aon := by
  unfold State.coreDone; dsimp only; split <;> simp
@[simp] theorem State.coreDone_hp (s : State) (c : Nat) (k : Core) (status : Nat) (idx : Nat) : (State.coreDone s c k status idx).hp = s.hp := by
  unfold State.coreDone; dsimp only; split <;> simp
@[simp] theorem State.coreDone_mem (s : State) (c : Nat) (k : Core) (status : Nat) (idx : Nat) : (State.coreDone s c k status idx).mem = s.mem := by
  unfold State.coreDone; dsimp only; split <;> simp
@[simp] theorem State.coreDone_flagged (s : State) (c : Nat) (k : Core) (status : Nat) (idx : Nat) : (State.coreDone s c k status idx).flagged = s.flagged := by
  unfold State.coreDone; dsimp only; split <;> simp
@[simp] theorem State.coreDone_pending (s : State) (c : Nat) (k : Core) (status : Nat) (idx : Nat) : (State.coreDone s c k status idx).pending = s.pending := by
  unfold State.coreDone; dsimp only; split <;> simp
@[simp] theorem State.coreDone_xfers (s : State) (c : Nat) (k : Core) (status : Nat) (idx : Nat) : (State.coreDone s c k status idx).blk.xfers = s.blk.xfers := by
  unfold State.coreDone; dsimp only; split <;> simp
@[simp] theorem State.coreDone_ports (s : State) (c : Nat) (k : Core) (status : Nat) (idx : Nat) : (State.coreDone s c k status idx).blk.ports = s.blk.ports := by
  unfold State.coreDone; dsimp only; split <;> simp
@[simp] theorem State.coreDone_replies (s : State) (c : Nat) (k : Core) (status : Nat) (idx : Nat) : (State.coreDone s c k status idx).blk.replies = s.blk.replies := by
  unfold State.coreDone; dsimp only; split <;> simp
@[simp] theorem State.coreDone_served (s : State) (c : Nat) (k : Core) (status : Nat) (idx : Nat) : (State.coreDone s c k status idx).blk.served = s.blk.served := by
  unfold State.coreDone; dsimp only; split <;> simp
@[simp] theorem State.coreDone_nextPk (s : State) (c : Nat) (k : Core) (status : Nat) (idx : Nat) : (State.coreDone s c k status idx).blk.nextPk = s.blk.nextPk := by
  unfold State.coreDone; dsimp only; split <;> simp


/-! `State.touch` -/
@[simp] theorem State.touch_cfg (s : State) (c : Nat) (w : Writer) (rs : List (Nat × Nat)) : (State.touch s c w rs).cfg = s.cfg := by
  unfold State.touch; dsimp only; (repeat' split) <;> simp
@[simp] theorem State.touch_pins (s : State) (c : Nat) (w : Writer) (rs : List (Nat × Nat)) : (State.touch s c w rs).pins = s.pins := by
  unfold State.touch; dsimp only; (repeat' split) <;> simp
@[simp] theorem State.touch_aon (s : State) (c : Nat) (w : Writer) (rs : List (Nat × Nat)) : (State.touch s c w rs).aon = s.aon := by
  unfold State.touch; dsimp only; (repeat' split) <;> simp
@[simp] theorem State.touch_hp (s : State) (c : Nat) (w : Writer) (rs : List (Nat × Nat)) : (State.touch s c w rs).hp = s.hp := by
  unfold State.touch; dsimp only; (repeat' split) <;> simp
@[simp] theorem State.touch_mem (s : State) (c : Nat) (w : Writer) (rs : List (Nat × Nat)) : (State.touch s c w rs).mem = s.mem := by
  unfold State.touch; dsimp only; (repeat' split) <;> simp
@[simp] theorem State.touch_flagged (s : State) (c : Nat) (w : Writer) (rs : List (Nat × Nat)) : (State.touch s c w rs).flagged = s.flagged := by
  unfold State.touch; dsimp only; (repeat' split) <;> simp
@[simp] theorem State.touch_pending (s : State) (c : Nat) (w : Writer) (rs : List (Nat × Nat)) : (State.touch s c w rs).pending = s.pending := by
  unfold State.touch; dsimp only; (repeat' split) <;> simp
@[simp] theorem State.touch_pkts (s : State) (c : Nat) (w : Writer) (rs : List (Nat × Nat)) : (State.touch s c w rs).blk.pkts = s.blk.pkts := by
  unfold State.touch; dsimp only; (repeat' split) <;> simp
@[simp] theorem State.touch_ports (s : State) (c : Nat) (w : Writer) (rs : List (Nat × Nat)) : (State.touch s c w rs).blk.ports = s.blk.ports := by
  unfold State.touch; dsimp only; (repeat' split) <;> simp
@[simp] theorem State.touch_replies (s : State) (c : Nat) (w : Writer) (rs : List (Nat × Nat)) : (State.touch s c w rs).blk.replies = s.blk.replies := by
  unfold State.touch; dsimp only; (repeat' split) <;> simp
@[simp] theorem State.touch_saddle (s : State) (c : Nat) (w : Writer) (rs : List (Nat × Nat)) : (State.touch s c w rs).blk.saddle = s.blk.saddle := by
  unfold State.touch; dsimp only; (repeat' split) <;> simp
@[simp] theorem State.touch_served (s : State) (c : Nat) (w : Writer) (rs : List (Nat × Nat)) : (State.touch s c w rs).blk.served = s.blk.served := by
  unfold State.touch; dsimp only; (repeat' split) <;> simp
@[simp] theorem State.touch_west (s : State) (c : Nat) (w : Writer) (rs : List (Nat × Nat)) : (State.touch s c w rs).blk.west = s.blk.west := by
  unfold State.touch; dsimp only; (repeat' split) <;> simp
@[simp] theorem State.touch_east (s : State) (c : Nat) (w : Writer) (rs : List (Nat × Nat)) : (State.touch s c w rs).blk.east = s.blk.east := by
  unfold State.touch; dsimp only; (repeat' split) <;> simp
@[simp] theorem State.touch_nextPk (s : State) (c : Nat) (w : Writer) (rs : List (Nat × Nat)) : (State.touch s c w rs).blk.nextPk = s.blk.nextPk := by
  unfold State.touch; dsimp only; (repeat' split) <;> simp


/-! `State.loseLines` -/
@[simp] theorem State.loseLines_cfg (s : State) (ls : List Lines) : (State.loseLines s ls).cfg = s.cfg := rfl
@[simp] theorem State.loseLines_pins (s : State) (ls : List Lines) : (State.loseLines s ls).pins = s.pins := rfl
@[simp] theorem State.loseLines_aon (s : State) (ls : List Lines) : (State.loseLines s ls).aon = s.aon := rfl
@[simp] theorem State.loseLines_hp (s : State) (ls : List Lines) : (State.loseLines s ls).hp = s.hp := rfl
@[simp] theorem State.loseLines_mem (s : State) (ls : List Lines) : (State.loseLines s ls).mem = s.mem := rfl
@[simp] theorem State.loseLines_flagged (s : State) (ls : List Lines) : (State.loseLines s ls).flagged = s.flagged := rfl
@[simp] theorem State.loseLines_free (s : State) (ls : List Lines) : (State.loseLines s ls).free = s.free := rfl
@[simp] theorem State.loseLines_pending (s : State) (ls : List Lines) : (State.loseLines s ls).pending = s.pending := rfl
@[simp] theorem State.loseLines_cores (s : State) (ls : List Lines) : (State.loseLines s ls).blk.cores = s.blk.cores := rfl
@[simp] theorem State.loseLines_pkts (s : State) (ls : List Lines) : (State.loseLines s ls).blk.pkts = s.blk.pkts := rfl
@[simp] theorem State.loseLines_ports (s : State) (ls : List Lines) : (State.loseLines s ls).blk.ports = s.blk.ports := rfl
@[simp] theorem State.loseLines_replies (s : State) (ls : List Lines) : (State.loseLines s ls).blk.replies = s.blk.replies := rfl
@[simp] theorem State.loseLines_saddle (s : State) (ls : List Lines) : (State.loseLines s ls).blk.saddle = s.blk.saddle := rfl
@[simp] theorem State.loseLines_served (s : State) (ls : List Lines) : (State.loseLines s ls).blk.served = s.blk.served := rfl
@[simp] theorem State.loseLines_west (s : State) (ls : List Lines) : (State.loseLines s ls).blk.west = s.blk.west := rfl
@[simp] theorem State.loseLines_east (s : State) (ls : List Lines) : (State.loseLines s ls).blk.east = s.blk.east := rfl
@[simp] theorem State.loseLines_nextPk (s : State) (ls : List Lines) : (State.loseLines s ls).blk.nextPk = s.blk.nextPk := rfl


/-! `State.endCore` -/
@[simp] theorem State.endCore_cfg (s : State) (c idx : Nat) (st : Status) : (State.endCore s c idx st).cfg = s.cfg := by
  simp [State.endCore]
@[simp] theorem State.endCore_pins (s : State) (c idx : Nat) (st : Status) : (State.endCore s c idx st).pins = s.pins := by
  simp [State.endCore]
@[simp] theorem State.endCore_aon (s : State) (c idx : Nat) (st : Status) : (State.endCore s c idx st).aon = s.aon := by
  simp [State.endCore]
@[simp] theorem State.endCore_hp (s : State) (c idx : Nat) (st : Status) : (State.endCore s c idx st).hp = s.hp := by
  simp [State.endCore]
@[simp] theorem State.endCore_mem (s : State) (c idx : Nat) (st : Status) : (State.endCore s c idx st).mem = s.mem := by
  simp [State.endCore]
@[simp] theorem State.endCore_flagged (s : State) (c idx : Nat) (st : Status) : (State.endCore s c idx st).flagged = s.flagged := by
  simp [State.endCore]
@[simp] theorem State.endCore_free (s : State) (c idx : Nat) (st : Status) : (State.endCore s c idx st).free = s.free := by
  simp [State.endCore]
@[simp] theorem State.endCore_pending (s : State) (c idx : Nat) (st : Status) : (State.endCore s c idx st).pending = s.pending := by
  simp [State.endCore]
@[simp] theorem State.endCore_pkts (s : State) (c idx : Nat) (st : Status) : (State.endCore s c idx st).blk.pkts = s.blk.pkts := by
  simp [State.endCore]
@[simp] theorem State.endCore_xfers (s : State) (c idx : Nat) (st : Status) : (State.endCore s c idx st).blk.xfers = s.blk.xfers := by
  simp [State.endCore]
@[simp] theorem State.endCore_ports (s : State) (c idx : Nat) (st : Status) : (State.endCore s c idx st).blk.ports = s.blk.ports := by
  simp [State.endCore]
@[simp] theorem State.endCore_replies (s : State) (c idx : Nat) (st : Status) : (State.endCore s c idx st).blk.replies = s.blk.replies := by
  simp [State.endCore]
@[simp] theorem State.endCore_saddle (s : State) (c idx : Nat) (st : Status) : (State.endCore s c idx st).blk.saddle = s.blk.saddle := by
  simp [State.endCore]
@[simp] theorem State.endCore_served (s : State) (c idx : Nat) (st : Status) : (State.endCore s c idx st).blk.served = s.blk.served := by
  simp [State.endCore]
@[simp] theorem State.endCore_west (s : State) (c idx : Nat) (st : Status) : (State.endCore s c idx st).blk.west = s.blk.west := by
  simp [State.endCore]
@[simp] theorem State.endCore_east (s : State) (c idx : Nat) (st : Status) : (State.endCore s c idx st).blk.east = s.blk.east := by
  simp [State.endCore]
@[simp] theorem State.endCore_nextPk (s : State) (c idx : Nat) (st : Status) : (State.endCore s c idx st).blk.nextPk = s.blk.nextPk := by
  simp [State.endCore]


/-! `State.xferDone` -/
@[simp] theorem State.xferDone_cfg (s : State) (x : Transfer) : (State.xferDone s x).cfg = s.cfg := by
  unfold State.xferDone; dsimp only; (repeat' split) <;> simp
@[simp] theorem State.xferDone_pins (s : State) (x : Transfer) : (State.xferDone s x).pins = s.pins := by
  unfold State.xferDone; dsimp only; (repeat' split) <;> simp
@[simp] theorem State.xferDone_mem (s : State) (x : Transfer) : (State.xferDone s x).mem = s.mem := by
  unfold State.xferDone; dsimp only; (repeat' split) <;> simp
@[simp] theorem State.xferDone_flagged (s : State) (x : Transfer) : (State.xferDone s x).flagged = s.flagged := by
  unfold State.xferDone; dsimp only; (repeat' split) <;> simp
@[simp] theorem State.xferDone_pending (s : State) (x : Transfer) : (State.xferDone s x).pending = s.pending := by
  unfold State.xferDone; dsimp only; (repeat' split) <;> simp


/-! `State.xferFail` -/
@[simp] theorem State.xferFail_cfg (s : State) (x : Transfer) (st : Status) (dkind detail : Nat) : (State.xferFail s x st dkind detail).cfg = s.cfg := by
  unfold State.xferFail; dsimp only; (repeat' split) <;> simp
@[simp] theorem State.xferFail_pins (s : State) (x : Transfer) (st : Status) (dkind detail : Nat) : (State.xferFail s x st dkind detail).pins = s.pins := by
  unfold State.xferFail; dsimp only; (repeat' split) <;> simp
@[simp] theorem State.xferFail_mem (s : State) (x : Transfer) (st : Status) (dkind detail : Nat) : (State.xferFail s x st dkind detail).mem = s.mem := by
  unfold State.xferFail; dsimp only; (repeat' split) <;> simp
@[simp] theorem State.xferFail_flagged (s : State) (x : Transfer) (st : Status) (dkind detail : Nat) : (State.xferFail s x st dkind detail).flagged = s.flagged := by
  unfold State.xferFail; dsimp only; (repeat' split) <;> simp
@[simp] theorem State.xferFail_pending (s : State) (x : Transfer) (st : Status) (dkind detail : Nat) : (State.xferFail s x st dkind detail).pending = s.pending := by
  unfold State.xferFail; dsimp only; (repeat' split) <;> simp


/-! `State.landFabric` -/
@[simp] theorem State.landFabric_cfg (s : State) (x : Transfer) : (State.landFabric s x).cfg = s.cfg := by
  unfold State.landFabric; (repeat' split) <;> simp
@[simp] theorem State.landFabric_pins (s : State) (x : Transfer) : (State.landFabric s x).pins = s.pins := by
  unfold State.landFabric; (repeat' split) <;> simp
@[simp] theorem State.landFabric_mem (s : State) (x : Transfer) : (State.landFabric s x).mem = s.mem := by
  unfold State.landFabric; (repeat' split) <;> simp
@[simp] theorem State.landFabric_flagged (s : State) (x : Transfer) : (State.landFabric s x).flagged = s.flagged := by
  unfold State.landFabric; (repeat' split) <;> simp
@[simp] theorem State.landFabric_pending (s : State) (x : Transfer) : (State.landFabric s x).pending = s.pending := by
  unfold State.landFabric; (repeat' split) <;> simp


/-! `State.sendXfer` -/
@[simp] theorem State.sendXfer_cfg (s : State) (x : Transfer) : (State.sendXfer s x).cfg = s.cfg := rfl
@[simp] theorem State.sendXfer_pins (s : State) (x : Transfer) : (State.sendXfer s x).pins = s.pins := rfl
@[simp] theorem State.sendXfer_mem (s : State) (x : Transfer) : (State.sendXfer s x).mem = s.mem := rfl
@[simp] theorem State.sendXfer_flagged (s : State) (x : Transfer) : (State.sendXfer s x).flagged = s.flagged := rfl
@[simp] theorem State.sendXfer_pending (s : State) (x : Transfer) : (State.sendXfer s x).pending = s.pending := rfl


/-! `State.stageArrivals` -/
@[simp] theorem State.stageArrivals_cfg (s : State)  : (State.stageArrivals s).cfg = s.cfg := rfl
@[simp] theorem State.stageArrivals_pins (s : State)  : (State.stageArrivals s).pins = s.pins := rfl
@[simp] theorem State.stageArrivals_mem (s : State)  : (State.stageArrivals s).mem = s.mem := rfl
@[simp] theorem State.stageArrivals_flagged (s : State)  : (State.stageArrivals s).flagged = s.flagged := rfl
@[simp] theorem State.stageArrivals_pending (s : State)  : (State.stageArrivals s).pending = s.pending := rfl
@[simp] theorem State.stageArrivals_free (s : State)  : (State.stageArrivals s).free = s.free := rfl
@[simp] theorem State.stageArrivals_aon (s : State)  : (State.stageArrivals s).aon = s.aon := rfl
@[simp] theorem State.stageArrivals_hp (s : State)  : (State.stageArrivals s).hp = s.hp := rfl


/-! `State.badLines` -/
@[simp] theorem State.badLines_cfg (s : State) (owner : Nat) (ls : List Nat) : (State.badLines s owner ls).cfg = s.cfg := by
  unfold State.badLines; split <;> rfl
@[simp] theorem State.badLines_pins (s : State) (owner : Nat) (ls : List Nat) : (State.badLines s owner ls).pins = s.pins := by
  unfold State.badLines; split <;> rfl
@[simp] theorem State.badLines_aon (s : State) (owner : Nat) (ls : List Nat) : (State.badLines s owner ls).aon = s.aon := by
  unfold State.badLines; split <;> rfl
@[simp] theorem State.badLines_hp (s : State) (owner : Nat) (ls : List Nat) : (State.badLines s owner ls).hp = s.hp := by
  unfold State.badLines; split <;> rfl
@[simp] theorem State.badLines_mem (s : State) (owner : Nat) (ls : List Nat) : (State.badLines s owner ls).mem = s.mem := by
  unfold State.badLines; split <;> rfl
@[simp] theorem State.badLines_flagged (s : State) (owner : Nat) (ls : List Nat) : (State.badLines s owner ls).flagged = s.flagged := by
  unfold State.badLines; split <;> rfl
@[simp] theorem State.badLines_free (s : State) (owner : Nat) (ls : List Nat) : (State.badLines s owner ls).free = s.free := by
  unfold State.badLines; split <;> rfl
@[simp] theorem State.badLines_pending (s : State) (owner : Nat) (ls : List Nat) : (State.badLines s owner ls).pending = s.pending := by
  unfold State.badLines; split <;> rfl
@[simp] theorem State.badLines_pkts (s : State) (owner : Nat) (ls : List Nat) : (State.badLines s owner ls).blk.pkts = s.blk.pkts := by
  unfold State.badLines; split <;> rfl
@[simp] theorem State.badLines_ports (s : State) (owner : Nat) (ls : List Nat) : (State.badLines s owner ls).blk.ports = s.blk.ports := by
  unfold State.badLines; split <;> rfl
@[simp] theorem State.badLines_replies (s : State) (owner : Nat) (ls : List Nat) : (State.badLines s owner ls).blk.replies = s.blk.replies := by
  unfold State.badLines; split <;> rfl
@[simp] theorem State.badLines_saddle (s : State) (owner : Nat) (ls : List Nat) : (State.badLines s owner ls).blk.saddle = s.blk.saddle := by
  unfold State.badLines; split <;> rfl
@[simp] theorem State.badLines_served (s : State) (owner : Nat) (ls : List Nat) : (State.badLines s owner ls).blk.served = s.blk.served := by
  unfold State.badLines; split <;> rfl
@[simp] theorem State.badLines_west (s : State) (owner : Nat) (ls : List Nat) : (State.badLines s owner ls).blk.west = s.blk.west := by
  unfold State.badLines; split <;> rfl
@[simp] theorem State.badLines_east (s : State) (owner : Nat) (ls : List Nat) : (State.badLines s owner ls).blk.east = s.blk.east := by
  unfold State.badLines; split <;> rfl
@[simp] theorem State.badLines_nextPk (s : State) (owner : Nat) (ls : List Nat) : (State.badLines s owner ls).blk.nextPk = s.blk.nextPk := by
  unfold State.badLines; split <;> rfl


/-! Reads and writes are issued -/
@[simp] theorem State.issueRead_cfg (s : State) (l : Lines) : (State.issueRead s l).1.cfg = s.cfg := by
  unfold State.issueRead; dsimp only; (repeat' split) <;> simp
@[simp] theorem State.issueRead_pins (s : State) (l : Lines) : (State.issueRead s l).1.pins = s.pins := by
  unfold State.issueRead; dsimp only; (repeat' split) <;> simp
@[simp] theorem State.issueRead_mem (s : State) (l : Lines) : (State.issueRead s l).1.mem = s.mem := by
  unfold State.issueRead; dsimp only; (repeat' split) <;> simp
@[simp] theorem State.issueRead_flagged (s : State) (l : Lines) : (State.issueRead s l).1.flagged = s.flagged := by
  unfold State.issueRead; dsimp only; (repeat' split) <;> simp
@[simp] theorem State.issueRead_pending (s : State) (l : Lines) : (State.issueRead s l).1.pending = s.pending := by
  unfold State.issueRead; dsimp only; (repeat' split) <;> simp
@[simp] theorem State.issueRead_free (s : State) (l : Lines) : (State.issueRead s l).1.free = s.free := by
  unfold State.issueRead; dsimp only; (repeat' split) <;> simp
@[simp] theorem State.issueRead_aon (s : State) (l : Lines) : (State.issueRead s l).1.aon = s.aon := by
  unfold State.issueRead; dsimp only; (repeat' split) <;> simp
@[simp] theorem State.issueRead_hp (s : State) (l : Lines) : (State.issueRead s l).1.hp = s.hp := by
  unfold State.issueRead; dsimp only; (repeat' split) <;> simp
@[simp] theorem State.issueWrite_cfg (s : State) (l : Lines) : (State.issueWrite s l).1.cfg = s.cfg := by
  unfold State.issueWrite; dsimp only; (repeat' split) <;> simp
@[simp] theorem State.issueWrite_pins (s : State) (l : Lines) : (State.issueWrite s l).1.pins = s.pins := by
  unfold State.issueWrite; dsimp only; (repeat' split) <;> simp
@[simp] theorem State.issueWrite_mem (s : State) (l : Lines) : (State.issueWrite s l).1.mem = s.mem := by
  unfold State.issueWrite; dsimp only; (repeat' split) <;> simp
@[simp] theorem State.issueWrite_flagged (s : State) (l : Lines) : (State.issueWrite s l).1.flagged = s.flagged := by
  unfold State.issueWrite; dsimp only; (repeat' split) <;> simp
@[simp] theorem State.issueWrite_pending (s : State) (l : Lines) : (State.issueWrite s l).1.pending = s.pending := by
  unfold State.issueWrite; dsimp only; (repeat' split) <;> simp
@[simp] theorem State.issueWrite_free (s : State) (l : Lines) : (State.issueWrite s l).1.free = s.free := by
  unfold State.issueWrite; dsimp only; (repeat' split) <;> simp
@[simp] theorem State.issueWrite_aon (s : State) (l : Lines) : (State.issueWrite s l).1.aon = s.aon := by
  unfold State.issueWrite; dsimp only; (repeat' split) <;> simp
@[simp] theorem State.issueWrite_hp (s : State) (l : Lines) : (State.issueWrite s l).1.hp = s.hp := by
  unfold State.issueWrite; dsimp only; (repeat' split) <;> simp

/-- What one issue keeps, the issue of a whole queue keeps. -/
theorem pump_keeps {β : Type} (F : State → β) (issue : State → Lines → State × Option Lines) (q : List Lines) (a : State × List Lines)
    (h : ∀ s l, F (issue s l).1 = F s) : F (q.foldl (pumpOne issue) a).1 = F a.1 := by
  induction q generalizing a with
  | nil => rfl
  | cons l t ih =>
    rw [List.foldl_cons, ih]
    unfold pumpOne
    split
    · rfl
    · exact h _ _

@[simp] theorem State.pumpReads_cfg (s : State) : (State.pumpReads s).cfg = s.cfg :=
  pump_keeps (fun s => s.cfg) State.issueRead _ (s, []) fun s l => by simp
@[simp] theorem State.pumpReads_pins (s : State) : (State.pumpReads s).pins = s.pins :=
  pump_keeps (fun s => s.pins) State.issueRead _ (s, []) fun s l => by simp
@[simp] theorem State.pumpReads_mem (s : State) : (State.pumpReads s).mem = s.mem :=
  pump_keeps (fun s => s.mem) State.issueRead _ (s, []) fun s l => by simp
@[simp] theorem State.pumpReads_flagged (s : State) : (State.pumpReads s).flagged = s.flagged :=
  pump_keeps (fun s => s.flagged) State.issueRead _ (s, []) fun s l => by simp
@[simp] theorem State.pumpReads_pending (s : State) : (State.pumpReads s).pending = s.pending :=
  pump_keeps (fun s => s.pending) State.issueRead _ (s, []) fun s l => by simp
@[simp] theorem State.pumpReads_free (s : State) : (State.pumpReads s).free = s.free :=
  pump_keeps (fun s => s.free) State.issueRead _ (s, []) fun s l => by simp
@[simp] theorem State.pumpReads_aon (s : State) : (State.pumpReads s).aon = s.aon :=
  pump_keeps (fun s => s.aon) State.issueRead _ (s, []) fun s l => by simp
@[simp] theorem State.pumpReads_hp (s : State) : (State.pumpReads s).hp = s.hp :=
  pump_keeps (fun s => s.hp) State.issueRead _ (s, []) fun s l => by simp
@[simp] theorem State.pumpWrites_cfg (s : State) : (State.pumpWrites s).cfg = s.cfg :=
  pump_keeps (fun s => s.cfg) State.issueWrite _ (s, []) fun s l => by simp
@[simp] theorem State.pumpWrites_pins (s : State) : (State.pumpWrites s).pins = s.pins :=
  pump_keeps (fun s => s.pins) State.issueWrite _ (s, []) fun s l => by simp
@[simp] theorem State.pumpWrites_mem (s : State) : (State.pumpWrites s).mem = s.mem :=
  pump_keeps (fun s => s.mem) State.issueWrite _ (s, []) fun s l => by simp
@[simp] theorem State.pumpWrites_flagged (s : State) : (State.pumpWrites s).flagged = s.flagged :=
  pump_keeps (fun s => s.flagged) State.issueWrite _ (s, []) fun s l => by simp
@[simp] theorem State.pumpWrites_pending (s : State) : (State.pumpWrites s).pending = s.pending :=
  pump_keeps (fun s => s.pending) State.issueWrite _ (s, []) fun s l => by simp
@[simp] theorem State.pumpWrites_free (s : State) : (State.pumpWrites s).free = s.free :=
  pump_keeps (fun s => s.free) State.issueWrite _ (s, []) fun s l => by simp
@[simp] theorem State.pumpWrites_aon (s : State) : (State.pumpWrites s).aon = s.aon :=
  pump_keeps (fun s => s.aon) State.issueWrite _ (s, []) fun s l => by simp
@[simp] theorem State.pumpWrites_hp (s : State) : (State.pumpWrites s).hp = s.hp :=
  pump_keeps (fun s => s.hp) State.issueWrite _ (s, []) fun s l => by simp

/-! `State.service` -/
@[simp] theorem State.service_cfg (s : State) : (State.service s).cfg = s.cfg := by
  unfold State.service
  dsimp only
  rw [foldl_keeps (fun s => s.cfg) _ _ _ fun s x => by split <;> simp, State.pumpWrites_cfg, State.stageArrivals_cfg,
    foldl_keeps (fun s => s.cfg) _ State.sendXfer _ fun s x => by simp, State.pumpReads_cfg]
@[simp] theorem State.service_pins (s : State) : (State.service s).pins = s.pins := by
  unfold State.service
  dsimp only
  rw [foldl_keeps (fun s => s.pins) _ _ _ fun s x => by split <;> simp, State.pumpWrites_pins, State.stageArrivals_pins,
    foldl_keeps (fun s => s.pins) _ State.sendXfer _ fun s x => by simp, State.pumpReads_pins]
@[simp] theorem State.service_mem (s : State) : (State.service s).mem = s.mem := by
  unfold State.service
  dsimp only
  rw [foldl_keeps (fun s => s.mem) _ _ _ fun s x => by split <;> simp, State.pumpWrites_mem, State.stageArrivals_mem,
    foldl_keeps (fun s => s.mem) _ State.sendXfer _ fun s x => by simp, State.pumpReads_mem]
@[simp] theorem State.service_flagged (s : State) : (State.service s).flagged = s.flagged := by
  unfold State.service
  dsimp only
  rw [foldl_keeps (fun s => s.flagged) _ _ _ fun s x => by split <;> simp, State.pumpWrites_flagged, State.stageArrivals_flagged,
    foldl_keeps (fun s => s.flagged) _ State.sendXfer _ fun s x => by simp, State.pumpReads_flagged]
@[simp] theorem State.service_pending (s : State) : (State.service s).pending = s.pending := by
  unfold State.service
  dsimp only
  rw [foldl_keeps (fun s => s.pending) _ _ _ fun s x => by split <;> simp, State.pumpWrites_pending, State.stageArrivals_pending,
    foldl_keeps (fun s => s.pending) _ State.sendXfer _ fun s x => by simp, State.pumpReads_pending]

/-! `State.startXfer` -/
@[simp] theorem State.startXfer_cfg (s : State) (tenant : Nat) (o : Owner) (d : Loc) (p : Payload) : (State.startXfer s tenant o d p).cfg = s.cfg := by
  simp [State.startXfer]
@[simp] theorem State.startXfer_pins (s : State) (tenant : Nat) (o : Owner) (d : Loc) (p : Payload) : (State.startXfer s tenant o d p).pins = s.pins := by
  simp [State.startXfer]
@[simp] theorem State.startXfer_mem (s : State) (tenant : Nat) (o : Owner) (d : Loc) (p : Payload) : (State.startXfer s tenant o d p).mem = s.mem := by
  simp [State.startXfer]
@[simp] theorem State.startXfer_flagged (s : State) (tenant : Nat) (o : Owner) (d : Loc) (p : Payload) : (State.startXfer s tenant o d p).flagged = s.flagged := by
  simp [State.startXfer]
@[simp] theorem State.startXfer_pending (s : State) (tenant : Nat) (o : Owner) (d : Loc) (p : Payload) : (State.startXfer s tenant o d p).pending = s.pending := by
  simp [State.startXfer]


end Sys2Proof.Machine
end

