-- ==== Sys2Proof/Laws/Tab.lean ====
section
/-! SUPPORT. Sparse tables: what a key reads as after a write, and that every operation keeps the canonical form. -/

namespace Sys2Proof.Machine

variable {α : Type}

/-! ### The canonical form as keys that rise and entries that differ from the default -/

/-- Keys rise strictly from above a bound, and no entry equals the default. -/
def Tab.from [DecidableEq α] (d : α) : Nat → Tab α → Prop
  | _, [] => True
  | b, (k, v) :: t => b ≤ k ∧ v ≠ d ∧ Tab.from d (k + 1) t

theorem Tab.wf_cons_iff [DecidableEq α] (d : α) (k : Nat) (v : α) (t : Tab α) :
    Tab.wf d ((k, v) :: t) = true ↔ v ≠ d ∧ Tab.from d (k + 1) t := by
  induction t generalizing k v with
  | nil => simp [Tab.wf, Tab.from]
  | cons p t ih =>
    obtain ⟨k', w⟩ := p
    simp only [Tab.wf, Bool.and_eq_true, decide_eq_true_eq, ih, Tab.from, Nat.succ_le_iff]
    tauto

theorem Tab.wf_iff [DecidableEq α] (d : α) (t : Tab α) : Tab.wf d t = true ↔ Tab.from d 0 t := by
  cases t with
  | nil => simp [Tab.wf, Tab.from]
  | cons p t =>
    obtain ⟨k, v⟩ := p
    simp [Tab.wf_cons_iff, Tab.from]

theorem Tab.from_mono [DecidableEq α] {d : α} {b c : Nat} {t : Tab α} (h : Tab.from d b t) (hc : c ≤ b) : Tab.from d c t := by
  cases t with
  | nil => trivial
  | cons p t => exact ⟨Nat.le_trans hc h.1, h.2⟩

theorem Tab.from_insert [DecidableEq α] {d : α} {b i : Nat} {v : α} {t : Tab α} (h : Tab.from d b t) (hb : b ≤ i) (hv : v ≠ d) :
    Tab.from d b (t.insert i v) := by
  induction t generalizing b with
  | nil => exact ⟨hb, hv, trivial⟩
  | cons p t ih =>
    obtain ⟨k, w⟩ := p
    obtain ⟨h1, h2, h3⟩ := h
    unfold Tab.insert
    split
    · next hk => exact ⟨hb, hv, hk, h2, h3⟩
    · split
      · next hk => exact ⟨hb, hv, hk ▸ h3⟩
      · exact ⟨h1, h2, ih h3 (by omega)⟩

theorem Tab.from_erase [DecidableEq α] {d : α} {b i : Nat} {t : Tab α} (h : Tab.from d b t) : Tab.from d b (t.erase i) := by
  induction t generalizing b with
  | nil => trivial
  | cons p t ih =>
    obtain ⟨k, w⟩ := p
    obtain ⟨h1, h2, h3⟩ := h
    unfold Tab.erase
    split
    · exact Tab.from_mono h3 (by omega)
    · exact ⟨h1, h2, ih h3⟩

/-! ### Every operation keeps the canonical form -/

theorem Tab.set_wf [DecidableEq α] {d : α} {t : Tab α} (h : Tab.wf d t = true) (i : Nat) (v : α) :
    Tab.wf d (Tab.set d t i v) = true := by
  rw [Tab.wf_iff] at *
  unfold Tab.set
  split
  · exact Tab.from_erase h
  · next hv => exact Tab.from_insert h (Nat.zero_le i) hv

theorem Tab.setAll_wf [DecidableEq α] {d : α} {t : Tab α} (h : Tab.wf d t = true) (ws : List (Nat × α)) :
    Tab.wf d (Tab.setAll d t ws) = true := by
  induction ws generalizing t with
  | nil => exact h
  | cons w ws ih => exact ih (Tab.set_wf h w.1 w.2)

theorem Tab.canon_wf [DecidableEq α] (d : α) (t : List (Nat × α)) : Tab.wf d (Tab.canon d t) = true :=
  Tab.setAll_wf (by rfl) t

theorem Tab.from_filter [DecidableEq α] {d : α} {b : Nat} {t : Tab α} (h : Tab.from d b t) (p : Nat × α → Bool) :
    Tab.from d b (t.filter p) := by
  induction t generalizing b with
  | nil => trivial
  | cons x t ih =>
    obtain ⟨k, v⟩ := x
    obtain ⟨h1, h2, h3⟩ := h
    rw [List.filter_cons]
    split
    · exact ⟨h1, h2, ih h3⟩
    · exact Tab.from_mono (ih h3) (by omega)

theorem Tab.filter_wf [DecidableEq α] {d : α} {t : Tab α} (h : Tab.wf d t = true) (p : Nat × α → Bool) :
    Tab.wf d (t.filter p) = true := by
  rw [Tab.wf_iff] at *
  exact Tab.from_filter h p

theorem Mem.wr_wf {m : Mem} (h : m.wf = true) (a : Nat) (b : Byte) : (m.wr a b).wf = true := Tab.set_wf h a b

theorem Mem.wrAll_wf {m : Mem} (h : m.wf = true) (ws : List (Nat × Byte)) : (m.wrAll ws).wf = true := Tab.setAll_wf h ws

theorem Mem.clear_wf {m : Mem} (h : m.wf = true) (a n : Nat) : (m.clear a n).wf = true := Tab.filter_wf h _

/-! ### Reading after a write -/

theorem Tab.get_below [DecidableEq α] {d : α} {b i : Nat} {t : Tab α} (h : Tab.from d b t) (hi : i < b) : Tab.get d t i = d := by
  induction t generalizing b with
  | nil => rfl
  | cons p t ih =>
    obtain ⟨k, v⟩ := p
    unfold Tab.get
    rw [if_neg (by have := h.1; omega), ih h.2.2 (by have := h.1; omega)]

theorem Tab.get_insert [DecidableEq α] (d : α) (t : Tab α) (i j : Nat) (v : α) :
    Tab.get d (t.insert i v) j = if j = i then v else Tab.get d t j := by
  induction t with
  | nil => simp [Tab.insert, Tab.get]
  | cons p t ih =>
    obtain ⟨k, w⟩ := p
    unfold Tab.insert
    split
    · simp [Tab.get]
    · split
      · next h => subst h; simp only [Tab.get]; split <;> simp_all
      · simp only [Tab.get, ih]; split <;> split <;> simp_all

theorem Tab.get_erase [DecidableEq α] {d : α} {b : Nat} {t : Tab α} (h : Tab.from d b t) (i j : Nat) :
    Tab.get d (t.erase i) j = if j = i then d else Tab.get d t j := by
  induction t generalizing b with
  | nil => simp [Tab.erase, Tab.get]
  | cons p t ih =>
    obtain ⟨k, w⟩ := p
    unfold Tab.erase
    split
    · next hk =>
      subst hk
      simp only [Tab.get]
      split
      · next hj => rw [hj]; exact Tab.get_below h.2.2 (Nat.lt_succ_self _)
      · rfl
    · simp only [Tab.get, ih h.2.2]; split <;> split <;> simp_all

/-- A key reads as what was last written to it, and every other key reads as before. -/
theorem Tab.get_set [DecidableEq α] {d : α} {t : Tab α} (h : Tab.wf d t = true) (i j : Nat) (v : α) :
    Tab.get d (Tab.set d t i v) j = if j = i then v else Tab.get d t j := by
  rw [Tab.wf_iff] at h
  unfold Tab.set
  split
  · next hv => rw [Tab.get_erase h, hv]
  · exact Tab.get_insert d t i j v

theorem Mem.rd_wr {m : Mem} (h : m.wf = true) (a b : Nat) (v : Byte) : (m.wr a v).rd b = if b = a then v else m.rd b :=
  Tab.get_set h a b v

/-- Writing a list of bytes leaves every byte at another address as it was. -/
theorem Mem.rd_wrAll_of_notMem {m : Mem} (h : m.wf = true) (ws : List (Nat × Byte)) (b : Nat) (hb : ∀ w ∈ ws, w.1 ≠ b) :
    (m.wrAll ws).rd b = m.rd b := by
  induction ws generalizing m with
  | nil => rfl
  | cons w ws ih =>
    have e := ih (m := m.wr w.1 w.2) (Mem.wr_wf h _ _) fun x hx => hb x (List.mem_cons_of_mem _ hx)
    exact e.trans ((Mem.rd_wr h _ _ _).trans (if_neg (Ne.symm (hb w List.mem_cons_self))))

theorem Tab.get_filter (d : α) (t : Tab α) (p : Nat → Bool) (j : Nat) :
    Tab.get d (t.filter fun x => p x.1) j = if p j then Tab.get d t j else d := by
  induction t with
  | nil => simp [Tab.get]
  | cons x t ih =>
    obtain ⟨k, v⟩ := x
    rw [List.filter_cons]
    by_cases hj : j = k
    · subst hj; split <;> simp_all [Tab.get]
    · split <;> simp_all [Tab.get]

/-- Clearing a range makes its bytes read 0 and leaves every other byte. -/
theorem Mem.rd_clear (m : Mem) (a n b : Nat) : (m.clear a n).rd b = if b < a ∨ a + n ≤ b then m.rd b else 0 := by
  have h := Tab.get_filter (0 : Byte) m (fun k => decide (k < a) || decide (a + n ≤ k)) b
  unfold Mem.clear Mem.rd
  rw [h]
  simp only [Bool.or_eq_true, decide_eq_true_eq]

end Sys2Proof.Machine
end

