-- ==== Sys2Proof/Tests/Slice0.lean ====
section
/-! SUPPORT. Tests: ill-formed commands that WellFormed refuses, worked examples of the spec, and for every statement with
hypotheses a concrete state and operands that meet them. -/

set_option Elab.async false

namespace Sys2Proof.Tests

open Sys2Proof Sys2Proof.Machine

/-! ### Small states -/

/-- A word with the values at the named lowest bits. -/
def at64 (l : List (Nat × Nat)) : Word := BitVec.ofNat 64 (l.foldl (fun n x => n + x.2 * 2 ^ x.1) 0)

/-- The block of configuration c in phase OPEN. -/
def openOf (c : Configuration) : State :=
  let r := State.resetOf c
  { r with
    pins := { r.pins with blkRstLow := false }
    aon := { r.aon with phase := .opened, listA := List.range c.nPorts, caps0 := c.caps0, caps1 := c.caps1 } }

def up : State := openOf .mbf16

/-- The policy of the sealed states: host 0 with its rights over tenant 0, and tenant 0 with one window from granule 0. -/
def policy : List Word :=
  [0, at64 [(63, 1), (61, 1), (32, 1), (0, 1)], at64 [(59, 4), (54, 4), (0, 0x10000)]] ++ List.replicate 14 0
    ++ [at64 [(63, 1), (56, 1)], at64 [(32, 0x10000)]] ++ List.replicate 94 0

/-- The block of configuration c after SEAL: every core bound to tenant 0, West in the lead and East following. -/
def sealedOf (c : Configuration) : State :=
  let o := openOf c
  let s := { o with aon := { o.aon with policy := policy } }
  { s with
    aon := { s.aon with
      phase := .sealed, sealed := true, policyCrc := s.polCrc, leadHalf := s.polLeadEast, epochW := 1, epochE := 1, roleW := .lead
      roleE := if c.hasEast then .follower else .off }
    blk := { s.blk with
      west := { s.blk.west with ts := { s.blk.west.ts with bind := List.replicate c.nCores (some 0) } }
      east := { s.blk.east with ts := { s.blk.east.ts with bind := List.replicate c.nCores (some 0) } } } }

def sld : State := sealedOf .mbf16
def two : State := sealedOf .mbf32

/-- A core that runs one instruction. -/
def running (t : TI) : Core :=
  { Core.reset with img := { Image.empty with instrs := [t] }, run := { RunSt.reset with state := .running } }

/-- Core c of a sealed block is k. -/
def withCore (c : Nat) (k : Core) : State := sld.setCore c k

/-- An instruction by its words, each as values at lowest bits (R187). -/
def ti (w0 w1 w2 w3 : List (Nat × Nat)) : TI := ⟨at64 w0, at64 w1, at64 w2, at64 w3⟩

/-! ### Witnesses: the whole machine -/

theorem test_witness_StepRunsTheFrontCommand : State.reset.pending = [] ∧ State.reset.core? 0 = some Core.reset := by decide +kernel

def wrst : State := { State.reset with pending := [.wrstn] }

theorem test_witness_StepKeepsTheForm : wrst.Formed ∧ step wrst = .next State.reset :=
  ⟨by unfold State.Formed; decide +kernel, rfl⟩

theorem sld_kept : sld.SealKept := fun _ =>
  ⟨by simp only [sld, sealedOf, State.polCrc], by simp only [sld, sealedOf, State.polLeadEast, State.pw]⟩

theorem test_witness_SealedPolicyStands :
    let s := { sld with pending := [Instr.vcoreAck] }
    s.SealKept ∧ s.aon.sealed = true ∧ step s = .next sld ∧ resetsBlock .vcoreAck = false :=
  ⟨sld_kept, rfl, rfl, rfl⟩

theorem test_witness_WellFormedCommandsAnswer :
    (Instr.await 7).wf Configuration.mbf16 = true ∧ exec (.await 8) up = .fault .noSuchUnit := ⟨by decide, rfl⟩

theorem test_witness_CreditsAreConserved :
    (wrst.CreditsHeld ∧ step wrst = .next State.reset ∧ wrst.undefines .wrstn = false)
    ∧ ((∀ b : Bool, up.undefines (if b then .capturePulse else .wrapperShift (.shift true 0)) = false)
      ∧ up.CreditsHeld ∧ up.pins.blkRstLow = false) :=
  ⟨⟨by unfold State.CreditsHeld; decide +kernel, rfl, rfl⟩, by unfold State.CreditsHeld; decide +kernel⟩

theorem test_witness_CoresAreNumbered :
    fld Configuration.mbf64.caps0 25 24 = 2 ∧ 31 < Configuration.mbf64.nCores
      ∧ fld Configuration.mbf16.caps0 25 24 = 1 := by decide +kernel

theorem test_witness_Df8CodesDecode :
    1 ≤ 0x08 / 8 % 16 ∧ 1 ≤ 0xFF / 8 % 16 ∧ 0x80 < 256 ∧ 0x87 / 8 % 16 = 0 ∧ 0x87 ≠ 0x80 ∧ 65535 < 65536 := by decide

theorem test_witness_InterleaveIsOneToOne :
    (List.range 20).Nodup ∧ List.range 20 ≠ [] ∧ 2 ^ 41 - 1 < 2 ^ 41 ∧ (List.range 20).length ≤ 20 ∧ 19 ∈ List.range 20
      ∧ 0x1800000 * 4096 - 1 < 0x1800000 * 4096 := by decide +kernel

/-! ### Witnesses: tile instructions -/

def tAwait : TI := ti [(56, 0x11)] [] [] []
def tArm : TI := ti [(56, 0x12), (9, 1)] [(0, 3)] [] []
def kArm : Core := { running tArm with fords := [⟨5, 2, [], 7⟩] }
/-- ARM of the Ford whose firing its own start consumes: it stays fired, or fires again under the lower target. -/
def tOwn : TI := ti [(56, 0x12), (54, 1), (47, 1)] [(0, 1)] [] []
def kOwn (n : Nat) : Core := { running tOwn with fords := [⟨BitVec.ofNat 24 n, 2, [], 7⟩] }
def tChain : TI := ti [(56, 0x18)] [] [] []
def tPchain : TI := ti [(56, 0x19), (9, 1), (6, 1)] [] [] []
def tMark : TI := ti [(56, 0x20), (11, 31)] [] [] []

theorem test_witness_ControlInstructionsComplete :
    (withCore 0 (running tAwait)).Starts 0 .await (running tAwait) tAwait
    ∧ (withCore 7 (running tChain)).Starts 7 .chain (running tChain) tChain
    ∧ (withCore 1 (running tPchain)).Starts 1 .pchain (running tPchain) tPchain
    ∧ (withCore 0 (running tMark)).Starts 0 .mark (running tMark) tMark
    ∧ (withCore 0 kArm).Starts 0 .arm kArm tArm ∧ tArm.armTarget ≠ 0 ∧ kArm.fords[tArm.armFord]? = some ⟨5, 2, [], 7⟩
    ∧ (∀ n ∈ [2, 3, 4], (withCore 0 (kOwn n)).Starts 0 .arm (kOwn n) tOwn ∧ tOwn.armTarget = 1 ∧ tOwn.consume = true
      ∧ tOwn.waitFord = tOwn.armFord ∧ (kOwn n).fords[tOwn.armFord]? = some ⟨BitVec.ofNat 24 n, 2, [], 7⟩) := by
  unfold State.Starts State.Has; decide +kernel

def tLoop (rep : Nat) : TI := ti [(56, 0x11), (45, 1), (43, 3), (16, rep)] [] [] []
def kLoop (rep : Nat) (l : Option (BitVec 16)) : Core := { running (tLoop rep) with loops := [none, none, none, l] }

theorem test_witness_LoopBacksChooseTheNextInstruction :
    tAwait.loopOp ≠ 1 ∧ (withCore 0 (running tAwait)).Starts 0 .await (running tAwait) tAwait
    ∧ (withCore 0 (kLoop 0 none)).Starts 0 .await (kLoop 0 none) (tLoop 0)
    ∧ (tLoop 0).loopOp = 1 ∧ (kLoop 0 none).loops[(tLoop 0).loopLvl]? = some none ∧ (tLoop 0).loopRep = 0
    ∧ (withCore 0 (kLoop 65535 none)).Starts 0 .await (kLoop 65535 none) (tLoop 65535)
    ∧ (kLoop 65535 none).loops[(tLoop 65535).loopLvl]? = some none ∧ (tLoop 65535).loopRep = 65535
    ∧ (withCore 0 (kLoop 1 (some 0))).Starts 0 .await (kLoop 1 (some 0)) (tLoop 1)
    ∧ (kLoop 1 (some 0)).loops[(tLoop 1).loopLvl]? = some (some 0)
    ∧ (withCore 0 (kLoop 1 (some 1))).Starts 0 .await (kLoop 1 (some 1)) (tLoop 1)
    ∧ (kLoop 1 (some 1)).loops[(tLoop 1).loopLvl]? = some (some 1) := by
  unfold State.Starts State.Has; decide +kernel

def tSync : TI := ti [(56, 0x21)] [] [] []
def tEnd : TI := ti [(56, 0x3F)] [] [] []

/-- A packet of the given number and words in the given state, submitted at port 0. -/
def pk (id : Nat) (ws : List Word) (st : PkSt) : Packet := { (default : Packet) with id := id, words := ws, st := st }
def kEnd : Core := { running tEnd with run := { RunSt.reset with state := .running, pkt := some 0 } }
def kFail : Core := { kEnd with run := { kEnd.run with ending := some (0x11, 3) } }
/-- A guest vector of tenant 3 that returns to Ford 0 of core 1. -/
def guest : Guest := ⟨1, 3, 1, 0, 64, .b32⟩
/-- A drain that has taken its tile, whose POISON_CHECK has fired, and that uncorrectable data has stopped. -/
def dPoison : Drain :=
  { (default : Drain) with out := { (default : DrainOut) with poison := true }, guests := [guest], ph := .held, stuck := true }
def kPoison : Core := { kFail with flight := [⟨0, 0, .drain dPoison⟩], nextF := 1 }
def pRun : Packet := { pk 0 [at64 [(56, 0x21), (48, 2)], 1] .running with acted := [0] }
def addPkt (s : State) (p : Packet) : State :=
  { s with blk := { s.blk with pkts := s.blk.pkts ++ [p], nextPk := p.id + 1 } }

theorem test_witness_ProgramsEnd :
    (withCore 0 (running tSync)).Starts 0 .sync (running tSync) tSync
    ∧ (withCore 0 (running tSync)).settled 0 (running tSync) = true
    ∧ (addPkt (withCore 0 kEnd) pRun).Starts 0 .fin kEnd tEnd ∧ (addPkt (withCore 0 kEnd) pRun).settled 0 kEnd = true
    ∧ kEnd.run.pkt = some 0 ∧ (addPkt (withCore 0 kEnd) pRun).pkt? 0 = some pRun
    ∧ (addPkt (withCore 0 kFail) pRun).Has 0 kFail ∧ kFail.run.ending = some (0x11, 3) ∧ kFail.quiet = true
    ∧ kFail.run.state = .running ∧ (addPkt (withCore 0 kFail) pRun).pkt? 0 = some pRun
    ∧ (withCore 1 kPoison).Has 1 kPoison ∧ kPoison.quiet = true ∧ kPoison.run.ending = some (0x11, 3)
    ∧ kPoison.flight.flatMap Flight.guests = [guest] ∧ (withCore 1 kPoison).role ((withCore 1 kPoison).servedBy 1) = .lead
    ∧ 0 ∈ (kPoison.flight.map (kPoison.polled (withCore 1 kPoison).free)).flatMap (Flight.poisons kPoison.run.tenant)
    ∧ 0 < (withCore 1 kPoison).auth.tens.length := by
  unfold State.Starts State.Has; decide +kernel

/-- OPASS of both engines that opens tag 1 of each with tiles of 2 x 1 and 2 x 3 and no step. -/
def tOpen : TI := ti [(56, 0x01), (14, 2), (9, 1), (5, 1)] [(16, 4)] [(55, 2), (46, 2), (37, 1), (28, 1), (19, 3), (10, 3)] []
/-- OPASS that adds to tag 0 of engine 1, one step. -/
def tAdd : TI := ti [(56, 0x01), (14, 1), (13, 1)] [(60, 2), (56, 2), (16, 1), (0, 1)] [(55, 1), (46, 1), (37, 1), (28, 1)] []
def one (st : SlotSt) : Slot := { Slot.reset with st := st, mExt := 1, nExt := 1, acc := [0] }
def kAdd : Core := { running tAdd with slots := [.reset, .reset, { one .acc with eng := 1, sat := true }, .reset] }
/-- The same core with the first word of its store marked. -/
def kAddBad : Core := { kAdd with bad := [0] }
/-- The same core while a drain still owes bytes of the column image that the pass reads. -/
def kAddOwed : Core :=
  { kAdd with flight := [⟨0, 0, .drain { (default : Drain) with writes := [(0, 8)] }⟩], nextF := 1 }
def raced (c : Nat) (k : Core) (t : TI) (e : Nat) : Bool := (withCore c k).unordered c .pass (k.colReads t k.lists [e])
/-- OPASS of INT8 operands, without chains, that opens tag 0 of engine 1 with tiles of 1 x 1 and its one step present. -/
def tInt : TI := ti [(56, 0x01), (14, 1)] [(60, 7), (56, 7), (16, 1), (0, 1)] [(55, 1), (46, 1), (37, 1), (28, 1)] []
def ready? : TagReady → Bool
  | .ready _ _ => true
  | _ => false

theorem ready_of {r : TagReady} (h : ready? r = true) : ∃ k i, r = .ready k i := by
  cases r <;> simp [ready?] at h ⊢

theorem test_witness_OpassOpensAndAdds :
    ((withCore 0 (running tOpen)).Starts 0 .opass (running tOpen) tOpen ∧ 0 ≤ (running tOpen).credit
      ∧ (running tOpen).autoMove = false ∧ (running tOpen).sameMode tOpen = true
      ∧ (running tOpen).badAt ((running tOpen).colReads tOpen (running tOpen).lists tOpen.engines) = none
      ∧ ∃ k i, (running tOpen).enginePasses 0 tOpen (raced 0 (running tOpen) tOpen) tOpen.engines = .ready k i)
    ∧ ((withCore 0 kAdd).Starts 0 .opass kAdd tAdd ∧ kAdd.sameMode tAdd = true
      ∧ kAdd.badAt (kAdd.colReads tAdd kAdd.lists tAdd.engines) = none
      ∧ ∃ k i, kAdd.enginePasses 0 tAdd (raced 0 kAdd tAdd) tAdd.engines = .ready k i)
    ∧ ((withCore 0 kAddBad).Starts 0 .opass kAddBad tAdd ∧ 0 ≤ kAddBad.credit ∧ kAddBad.autoMove = false
      ∧ kAddBad.sameMode tAdd = true ∧ kAddBad.badAt (kAddBad.colReads tAdd kAddBad.lists tAdd.engines) = some 0
      ∧ ∃ k i, kAddBad.enginePasses 0 tAdd (raced 0 kAddBad tAdd) tAdd.engines = .ready k i)
    ∧ (tOpen.oAdd = false ∧ tOpen.oKLim = 0 ∧ (running tOpen).slots.length = 4
      ∧ ∀ b, ∃ k i, (running tOpen).enginePass 0 tOpen (fun _ => b) 1 = .ready k i)
    ∧ (raced 0 kAddOwed tAdd 1 = true ∧ raced 0 kAdd tAdd 1 = false)
    ∧ ((tInt.oAdd = false ∧ tInt.oKLim = 1 ∧ tInt.oCplx = false ∧ tInt.fmtA = 7 ∧ tInt.fmtB = 7 ∧ tInt.pieceA = 0 ∧ tInt.pieceB = 0
        ∧ tInt.oMLim = tInt.mExt ∧ tInt.nLimOf 1 = tInt.nExtOf 1 ∧ tInt.cnegOf 1 = false
        ∧ (running tInt).lists.getD 1 none = none ∧ (running tInt).lists.getD 3 none = none)
      ∧ (running tInt).slots.length = 4 ∧ 0 < tInt.mExt ∧ 0 < tInt.nExtOf 1
      ∧ ∀ b, ∃ k i, (running tInt).enginePass 0 tInt (fun _ => b) 1 = .ready k i) := by
  unfold State.Starts State.Has
  refine ⟨⟨by decide +kernel, by decide +kernel, by decide +kernel, by decide +kernel, by decide +kernel,
      ready_of (by decide +kernel)⟩,
    ⟨by decide +kernel, by decide +kernel, by decide +kernel, ready_of (by decide +kernel)⟩,
    ⟨by decide +kernel, by decide +kernel, by decide +kernel, by decide +kernel, by decide +kernel, ready_of (by decide +kernel)⟩,
    ⟨by decide +kernel, by decide +kernel, by decide +kernel, fun b => ready_of (by cases b <;> decide +kernel)⟩,
    by decide +kernel, by decide +kernel, by decide +kernel, by decide +kernel, by decide +kernel,
    fun b => ready_of (by cases b <;> decide +kernel)⟩

/-- DPASS and TPASS with vec_max, n_lim and page 0, opening row 0. -/
def tPass (tree : Bool) (vm nl : Nat) : TI :=
  ti [(56, if tree then 0x03 else 0x02)] [(60, 2), (56, 2), (44, vm), (34, 1), (27, nl)] [(37, 1)] []
def kPass (tree : Bool) (vm nl : Nat) : Core :=
  let k := running (tPass tree vm nl)
  { k with plain := { k.plain with recs := [(0, (at64 [(47, 1), (43, 1)], 0))] } }

/-- A shared DPASS whose batch size comes from Ford 0, and whose guests wait at Ford 1. -/
def tBatch : TI :=
  ti [(56, 0x02), (54, 1), (10, 1), (9, 1), (3, 1)] [(60, 2), (56, 2), (44, 127), (34, 1), (27, 1)] [(37, 1)] []
def kBatch (b : Nat) : Core :=
  let k := running tBatch
  { k with
    fords := [⟨1, 1, [], BitVec.ofNat 7 b⟩, ⟨1, 1, [], 2⟩], img := { k.img with fords := [(0, 1), (at64 [(0, 4096)], 1)] }
    plain := { k.plain with recs := [(0, (at64 [(47, 1), (43, 1)], 0))] } }

theorem test_witness_PlainPassesComplete :
    (∀ tree, (withCore 1 (kPass tree 0 0)).Starts 1 (if tree then .tpass else .dpass) (kPass tree 0 0) (tPass tree 0 0)
      ∧ (tPass tree 0 0).vecMax = 0 ∧ (kPass tree 0 0).rowsReady (tPass tree 0 0) tree = true)
    ∧ (∀ tree, (withCore 1 (kPass tree 1 0)).Starts 1 (if tree then .tpass else .dpass) (kPass tree 1 0) (tPass tree 1 0)
      ∧ (tPass tree 1 0).pNLim = 0 ∧ (kPass tree 1 0).rowsReady (tPass tree 1 0) tree = true)
    ∧ (∀ tree, (withCore 1 (kPass tree 1 1)).Starts 1 (if tree then .tpass else .dpass) (kPass tree 1 1) (tPass tree 1 1)
      ∧ 0 ≤ (kPass tree 1 1).credit ∧ (kPass tree 1 1).flight.any Flight.reads = false ∧ (tPass tree 1 1).batchDyn = false
      ∧ (tPass tree 1 1).vecMax = 1
      ∧ (tPass tree 1 1).pNLim = 1 ∧ (kPass tree 1 1).rowsReady (tPass tree 1 1) tree = true
      ∧ (kPass tree 1 1).pageReady (classOf (tPass tree 1 1).fW) (tPass tree 1 1).page = true
      ∧ (kPass tree 1 1).plain.fills = []
      ∧ (let r : PassRec := ⟨0, tPass tree 1 1, [], 1, batchVecs 1 0, [], false⟩;
        ((kPass tree 1 1).pageReads r tree).any (fun y => (kPass tree 1 1).touchesGuest y.1 y.2) = false
        ∧ (kPass tree 1 1).badIn ((tPass tree 1 1).headerReads 0 ++ (kPass tree 1 1).plainReads r tree) = none))
    ∧ (∀ b ∈ [0, 4, 125, 127], (withCore 1 (kBatch b)).Starts 1 .dpass (kBatch b) tBatch ∧ tBatch.batchDyn = true
      ∧ ((kBatch b).ford tBatch.waitFord).batch.toNat = b ∧ tBatch.vecMax = 127 ∧ (kBatch b).rowsReady tBatch false = true
      ∧ (kBatch b).pageReady (classOf tBatch.fW) tBatch.page = true ∧ (kBatch b).bad = [] ∧ (kBatch b).plain.fills = []
      ∧ (let r : PassRec := ⟨0, tBatch, [], b, batchVecs b 4096, [], false⟩;
        ((kBatch b).pageReads r false).any (fun y => (kBatch b).touchesGuest y.1 y.2) = false)
      ∧ ((kBatch b).guestsOf tBatch b).2 = true ∧ tBatch.guestFord < (kBatch b).fords.length) := by
  unfold State.Starts State.Has; refine ⟨?_, ?_, ?_, ?_⟩ <;> decide +kernel

def tFill : TI := ti [(56, 0x08), (13, 1), (0, 1023)] [] [] []
/-- Fill 0 of the class and page, for PFILL 0 or for packet 0, of which parts have committed and the next is staged. -/
def fillAt (cls page parts : Nat) (pk : Bool) : Fill :=
  ⟨0, 0, cls, page, if pk then none else some 0, if pk then some 0 else none, none, parts + 1, parts, false⟩
def kFill (f : Fill) (bad : Bool) : Core :=
  let k := running tFill
  { k with
    plain := { k.plain with fills := [f], halfA := some ⟨0, f.parts, 0, some [(0, 1)], bad, []⟩ }
    flight := [⟨0, 0, .fill⟩], nextF := 1 }

theorem test_witness_PageFillsComplete :
    (withCore 1 (running tFill)).Starts 1 .pfill (running tFill) tFill
    ∧ (withCore 1 (running tFill)).fabricAt (running tFill) tFill.fSrc (pageBytes tFill.fCls) false = .ok 0
    ∧ (∀ pk, ∀ f ∈ [fillAt 0 2047 0 pk, fillAt 1 1023 0 pk, fillAt 2 511 0 pk, fillAt 3 255 0 pk, fillAt 3 255 1 pk],
        (withCore 1 (kFill f false)).Has 1 (kFill f false) ∧ (kFill f false).plain.fills = [f]
        ∧ (kFill f false).plain.stagedFor f = some ⟨0, f.parts, 0, some [(0, 1)], false, []⟩
        ∧ (kFill f false).reading (pageSlots f.cls f.page) = false ∧ Tab.wf (0, 0) (kFill f false).plain.recs = true)
    ∧ fillParts 3 = 2 ∧ (2 ^ 41 - 64) % 64 = 0 := by
  unfold State.Starts State.Has; decide +kernel

/-! Passes, drains and spills under way. -/

/-- BDRAIN of tag 0 of engine 0, or of column row 0, to the store, its status word to the store (R202). -/
def tDrain : TI := ti [(56, 0x09)] [(60, 6), (54, 1)] [(31, 1), (22, 1)] [(62, 1)]
def kDrain : Core := { running tDrain with slots := [one .acc, .reset, .reset, .reset] }
/-- The same drain to fabric memory, of full limits. -/
def tDrainF : TI := ti [(56, 0x09)] [(60, 6)] [(31, 256), (22, 256)] []
def kDrainF : Core := { running tDrainF with slots := [{ one .acc with mExt := 256, nExt := 256 }, .reset, .reset, .reset] }
def rset : RowSet := ⟨false, 0, 1, false, true, 1, 1, 1, false, false, 0, [], [], none⟩
def kRows : Core := let k := running tDrain; { k with plain := { k.plain with sets := [rset] } }

theorem test_witness_BdrainStarts :
    ((withCore 0 kDrain).Starts 0 .bdrain kDrain tDrain ∧ kDrain.slots.length = 4 ∧ tDrain.dKind = 1 ∧ tDrain.stKind = 1
      ∧ (tDrain.engines.map fun e => kDrain.resident e (tDrain.drainTag e)) = [0].map some ∧ (kDrain.slot 0).st = .acc
      ∧ kDrain.passIn 0 = false ∧ kDrain.moving 0 = false
      ∧ (listSpans (listWords kDrain.img (kDrain.lists.getD 0 none)) (kDrain.drainShape tDrain [0] none).mMax
          (kDrain.drainShape tDrain [0] none).nMax).any (fun r => kDrain.touchesGuest r.1 r.2) = false ∧ kDrain.badIn [] = none
      ∧ stagesOf (listWords kDrain.img (kDrain.lists.getD 0 none)) = [])
    ∧ ((withCore 0 kDrainF).Starts 0 .bdrain kDrainF tDrainF ∧ kDrainF.slots.length = 4 ∧ tDrainF.dKind = 0 ∧ tDrainF.stKind = 0
      ∧ (withCore 0 kDrainF).fabricAt kDrainF tDrainF.dDst (max (tDrainF.spanOf (kDrainF.drainShape tDrainF [0] none)) 1) true
          = .ok 0
      ∧ (withCore 0 kDrainF).fabricAt kDrainF tDrainF.stAddr 8 true = .ok 0
      ∧ (tDrainF.engines.map fun e => kDrainF.resident e (tDrainF.drainTag e)) = [0].map some ∧ (kDrainF.slot 0).st = .acc
      ∧ kDrainF.passIn 0 = false ∧ kDrainF.moving 0 = false)
    ∧ ((withCore 1 kRows).Starts 1 .bdrain kRows tDrain ∧ kRows.rowSet? tDrain.dTree tDrain.dRow = some rset
      ∧ rset.draining = false ∧ rset.dirty = false ∧ kRows.passInto tDrain.dTree tDrain.dRow = false) := by
  unfold State.Starts State.Has; decide +kernel

def tSpill : TI := ti [(56, 0x0A)] [] [] []
def kSpill : Core := { running tSpill with slots := [one .acc, .reset, .reset, .reset] }
def tRefill : TI := ti [(56, 0x0B)] [] [] []
/-- The trailer of a record at offset a of one zero element. -/
def trailerAt (a : Nat) : Mem := [(a + 262144, 1), (a + 262146, 1), (a + 262148, 1)]
def kRefill : Core := { running tRefill with store := trailerAt 0 }
def loaded (tag used : Nat) : Slot :=
  { one .acc with tag := tag, used := used, sat := true, org := some (0, 0, 0, [0]) }
/-- OPASS that opens, or adds to, tag 2 of engine 0 under auto_spill (R86). -/
def tAuto (add : Bool) : TI := ti [(56, 0x01), (13, add.toNat), (9, 2)] [(16, 1)] [(55, 1), (37, 1)] []
def kAutoSpill : Core :=
  { running (tAuto false) with
    img := { Image.empty with hdr := [at64 [(53, 1)]], instrs := [tAuto false] }
    slots := [{ one .acc with used := 2 }, { one .acc with tag := 1, used := 1 }, .reset, .reset] }
def kAutoRefill : Core :=
  { running (tAuto true) with
    img := { Image.empty with hdr := [at64 [(53, 1)]], instrs := [tAuto true] }
    store := trailerAt (2 * recStride) }
def kSpilling : Core := { kSpill with flight := [⟨0, 0, .spill 0 3 64 false⟩], nextF := 1 }
def kRefilling : Core := { kSpill with flight := [⟨0, 0, .refill 0 0 64 0 true⟩], nextF := 1 }

theorem test_witness_SpillsAndRefillsComplete :
    ((withCore 0 kSpill).Starts 0 .spill kSpill tSpill ∧ kSpill.resident tSpill.sEng tSpill.sTag = some 0
      ∧ (kSpill.slot 0).st = .acc ∧ kSpill.passIn 0 = false ∧ kSpill.moving 0 = false)
    ∧ ((withCore 0 kRefill).Starts 0 .refill kRefill tRefill ∧ kRefill.slotForNew tRefill.sEng tRefill.sTag = some 0
      ∧ kRefill.moving 0 = false ∧ kRefill.badIn [(tRefill.recOff, recBytes)] = none
      ∧ readRecord kRefill.store tRefill.recOff 0 0 kRefill.nextF = some (loaded 0 0))
    ∧ ((withCore 0 kAutoSpill).Has 0 kAutoSpill ∧ kAutoSpill.autoNames = some ([(0, 2)], true)
      ∧ kAutoSpill.short (kAutoSpill.absent [(0, 2)]) = some 0 ∧ kAutoSpill.victimFor 0 [(0, 2)] = some 1
      ∧ kAutoSpill.passIn 1 = false ∧ kAutoSpill.moving 1 = false)
    ∧ ((withCore 0 kAutoRefill).Has 0 kAutoRefill ∧ kAutoRefill.autoNames = some ([(0, 2)], false)
      ∧ (kAutoRefill.absent [(0, 2)]).findSome? (fun p => (kAutoRefill.emptySlot p.1).map fun j => (p, j)) = some ((0, 2), 0)
      ∧ kAutoRefill.moving 0 = false
      ∧ kAutoRefill.badIn [(kAutoRefill.autoRec 0 2, recBytes)] = none
      ∧ readRecord kAutoRefill.store (kAutoRefill.autoRec 0 2) 0 2 kAutoRefill.nextF = some (loaded 2 0))
    ∧ ((withCore 0 kSpilling).Has 0 kSpilling ∧ 3 < kSpilling.slots.length
      ∧ kSpilling.flight? 0 = some ⟨0, 0, .spill 0 3 64 false⟩)
    ∧ ((withCore 0 kRefilling).Has 0 kRefilling ∧ kRefilling.flight? 0 = some ⟨0, 0, .refill 0 0 64 0 true⟩
      ∧ kRefilling.isStopped 0 = false ∧ 0 < kRefilling.slots.length ∧ (kRefilling.slot 0).stale = false) := by
  unfold State.Starts State.Has; refine ⟨?_, ?_, ?_, ?_, ?_, ?_⟩ <;> decide +kernel

theorem test_witness_SpillRecordRoundTrips :
    let x : Slot := { one .acc with tag := 15, kDone := 2 ^ 32 - 1, acc := [2 ^ 32 - 1] }
    let y : Slot := { one .acc with kind := .dwi, acc := [2 ^ 128 - 1] }
    (Mem.wf [(7, 1)] = true ∧ x.st = .acc ∧ 0 < x.mExt ∧ x.mExt ≤ 256 ∧ 0 < x.nExt ∧ x.nExt ≤ 256 ∧ y.mExt ≤ 128 ∧ y.nExt ≤ 128
      ∧ x.acc.length = x.mExt * x.nExt ∧ (∀ v ∈ x.acc, v < 2 ^ (if x.kind.isWide then 128 else 32)) ∧ x.tag < 16
      ∧ x.kDone < 2 ^ 32)
    ∧ y.st = .acc ∧ (∀ v ∈ y.acc, v < 2 ^ (if y.kind.isWide then 128 else 32)) ∧ y.acc.length = y.mExt * y.nExt := by
  decide +kernel

/-- A pass under way, ordinal 0, with POISON_CHECK fired or not, over store bytes written since or not, stopped or not, for a Plain
pass with bad parity seen or not, and for a Col pass while an automatic spill runs or none. -/
def kColPass (p ch st au : Bool) : Core :=
  let k := running tOpen
  { k with
    flight := ⟨0, 0, .colPass [0] [0] false 3 p⟩ :: if au then [⟨1, 0, .spill 0 3 64 true⟩] else []
    slots := [{ one .acc with passes := [⟨0, tOpen, [], 0, [], [], ch⟩] }, .reset, .reset, .reset]
    rep := { k.rep with stopped := if st then [(0, none)] else [] } }
def kRowPass (p bad ch st : Bool) : Core :=
  let k := running (tPass false 1 1)
  { k with
    flight := [⟨0, 0, .plainPass 0 false 1 0 1 p bad⟩]
    plain := { k.plain with sets := [{ rset with passes := [⟨0, tPass false 1 1, [], 1, [], [], ch⟩] }] }
    rep := { k.rep with stopped := if st then [(0, none)] else [] } }

theorem test_witness_PassesRetire :
    (∀ p ch st au : Bool, let k := kColPass p ch st au;
      (withCore 0 k).Has 0 k ∧ k.isStopped 0 = st ∧ k.autoMove = au
      ∧ k.flight? 0 = some ⟨0, 0, .colPass [0] [0] false 3 p⟩ ∧ (k.slotRecs 0).any (·.changed) = ch)
    ∧ (let k := kColPass true false false false;
      (two.setCore 14 k).Has 14 k ∧ (two.setCore 14 k).role ((two.setCore 14 k).servedBy 14) = .follower
      ∧ (withCore 0 k).role ((withCore 0 k).servedBy 0) = .lead)
    ∧ (∀ p bad ch st : Bool, (withCore 1 (kRowPass p bad ch st)).Has 1 (kRowPass p bad ch st)
      ∧ (kRowPass p bad ch st).isStopped 0 = st
      ∧ (kRowPass p bad ch st).flight? 0 = some ⟨0, 0, .plainPass 0 false 1 0 1 p bad⟩
      ∧ ((kRowPass p bad ch st).rowRecs 0).any (·.2.changed) = ch) := by
  unfold State.Has; decide +kernel

/-- XFER of one row of 64 bytes, or none, between the named kinds of places (R205). -/
def tXfer (sk dk rows : Nat) : TI := ti [(56, 0x10), (14, sk), (12, dk)] [] [] [(40, 64), (24, rows)]
def kXfer (sk dk rows : Nat) : Core := running (tXfer sk dk rows)
/-- Source and destination kinds. -/
def kinds : List (Nat × Nat) := [(0, 0), (0, 1), (0, 2), (1, 0), (1, 1), (1, 2)]
def sXfer (sk dk rows : Nat) : State := withCore 0 (kXfer sk dk rows)

/-- Eight transfers have started, and those from the n-th on have not retired (R189). -/
def kDma (n : Nat) : Core :=
  { kXfer 1 0 1 with flight := ((List.range 8).filter (n ≤ ·)).map (fun i => ⟨i, 0, .xfer i i⟩), nextF := 8, nextD := 8 }

theorem test_witness_XferStartsWithinItsWindows :
    (∀ p ∈ kinds, (sXfer p.1 p.2 1).Starts 0 .xfer (kXfer p.1 p.2 1) (tXfer p.1 p.2 1)
      ∧ (tXfer p.1 p.2 1).rows ≠ 0 ∧ (tXfer p.1 p.2 1).rowBytes ≠ 0 ∧ (kXfer p.1 p.2 1).dmaFull = false)
    ∧ (∀ p ∈ kinds, (sXfer p.1 p.2 1).fabricAt (kXfer p.1 p.2 1) (tXfer p.1 p.2 1).xSrc 64 false = .ok 0
      ∧ (sXfer p.1 p.2 1).fabricAt (kXfer p.1 p.2 1) (tXfer p.1 p.2 1).xDst 64 true = .ok 0
      ∧ (kXfer p.1 p.2 1).touchesGuest 0 64 = false)
    ∧ (∀ p ∈ kinds, ∀ a ∈ [Loc.fabric 0, Loc.store 0 0], ∀ b ∈ [Loc.fabric 0, Loc.store 0 0, Loc.ford 0 0 0],
        (sXfer p.1 p.2 1).skewPast b ((tXfer p.1 p.2 1).copy a) = false)
    ∧ (∀ dk, dk < 3 → (sXfer 0 dk 0).Starts 0 .xfer (kXfer 0 dk 0) (tXfer 0 dk 0) ∧ (tXfer 0 dk 0).rows = 0)
    ∧ (kDma 0).dmaFull = true ∧ (kDma 1).dmaFull = false
    ∧ aliasLive (2 ^ 47 + 2 ^ 46) = true ∧ aliasLive 0 = false := by
  unfold State.Starts State.Has; refine ⟨?_, ?_, ?_, ?_, ?_, ?_, ?_, ?_⟩ <;> decide +kernel

/-- A block in which tenant 0 has a step open and two windows of one granule. -/
def stepping : State :=
  { sld with
    aon := { sld.aon with policy :=
      (sld.aon.policy.set 17 (at64 [(63, 1), (56, 2)])).set 18 (at64 [(32, 1)]) |>.set 19 (at64 [(32, 1), (0, 1)]) }
    blk := { sld.blk with west := { sld.blk.west with ts := { sld.blk.west.ts with
      tens := { Tenant.reset with stepOpen := true } :: List.replicate 15 .reset } } } }

theorem test_witness_XferStartsWithinItsWindows_alias :
    aliasLive (2 ^ 47 + 2 ^ 46) = true ∧ (stepping.auth.ten Core.reset.run.tenant).stepOpen = true
    ∧ stepping.translate Core.reset.run.tenant Core.reset.run.live Core.reset.run.chunk (2 ^ 47 + 2 ^ 46) 4096 = some 0
    ∧ stepping.inWindow Core.reset.run.tenant 0 4096 = true ∧ stepping.lostRange 0 4096 = false := by decide +kernel

/-- A sealed block with one transfer under way to core 0, which k is. -/
def landing (k : Core) (x : Transfer) : State :=
  let s := withCore 0 k
  { s with blk := { s.blk with xfers := [x], nextX := x.id + 1 } }
def xStore : Transfer :=
  ⟨0, 0, .instr 2 0 0, .store 0 64, .copy (.fabric 0) 0 1 64 0 0 0 false 0, List.replicate 64 1, some 0, [], [], none⟩
def xFord : Transfer := { xStore with dst := .ford 0 0 0 }
def xData : Transfer := { xStore with dst := .ford 0 0 64, load := .data [(0, 1), (3, 0x80)] true 1 1 64 [(0, 3)] }
/-- A core with one Ford of 128 bytes at offset 4096 and target 1, a reduce Ford or a guest Ford or neither. -/
def kFord (reduce guest : Bool) : Core :=
  { Core.reset with
    img := { Image.empty with fords := [(at64 [(32, 128), (0, 4096)], at64 [(17, guest.toNat), (16, reduce.toNat), (0, 1)])] }
    fords := [⟨0, 1, [], 7⟩] }

/-- The reset core with a marked word, which a copy of 64 bytes to offset 68 would replace in part. -/
def kMarked : Core := { Core.reset with bad := [8] }
def xPart : Transfer := { xStore with dst := .store 0 68 }

theorem instr_owned {s : State} {x : Transfer} {c f i : Nat} (h : x.owner = .instr c f i) : s.MoveOwned x := by
  intro pk p e; simp [h] at e

def kSender : Core := { running (tXfer 0 1 1) with flight := [⟨0, 0, .xfer 0 0⟩], nextF := 1, nextD := 1 }

theorem test_witness_TransfersLand :
    (xStore.owner = .instr 2 0 0 ∧ ∀ s : State, s.MoveOwned xStore ∧ s.MoveOwned xFord ∧ s.MoveOwned xPart)
    ∧ ((landing Core.reset xStore).xfer? 0 = some xStore ∧ (landing Core.reset xStore).core? 0 = some Core.reset
      ∧ (landing Core.reset xStore).ready xStore = true ∧ xStore.refusal (landing Core.reset xStore) = none
      ∧ Core.reset.maskedBad (shift 64 (xStore.bytes (landing Core.reset xStore))) = none)
    ∧ ((landing kMarked xPart).xfer? 0 = some xPart ∧ (landing kMarked xPart).ready xPart = true
      ∧ xPart.refusal (landing kMarked xPart) = none
      ∧ kMarked.maskedBad (shift 68 (xPart.bytes (landing kMarked xPart))) = some (0, 8)
      ∧ ((landing kMarked xPart).setCore 2 kSender).core? 2 = some kSender ∧ kSender.run.state = .running)
    ∧ (∀ g : Bool, (landing (kFord false g) xFord).xfer? 0 = some xFord ∧ (landing (kFord false g) xFord).ready xFord = true
      ∧ xFord.refusal (landing (kFord false g) xFord) = none ∧ ((kFord false g).fordEntry 0).map fordReduce = some false
      ∧ ((kFord false g).fordEntry 0).map fordGuest = some g
      ∧ 0 < (kFord false g).fords.length ∧ (kFord false g).bad = []) := by
  refine ⟨⟨rfl, fun s => ⟨instr_owned rfl, instr_owned rfl, instr_owned rfl⟩⟩, ?_, ?_, ?_⟩ <;> decide +kernel

/-- Core 0 is bound to no tenant, and refuses what core 2 sends it. -/
def refusing : State :=
  let s := (landing Core.reset xStore).setCore 2 kSender
  { s with blk := { s.blk with west := { s.blk.west with ts := { s.blk.west.ts with bind := none :: List.replicate 7 (some 0) } } } }
/-- The same for a guest row, or a signal, that the run of core 2 sent. -/
def xBack : Transfer := { xStore with owner := .quiet 2 0 0, dst := .ford 0 0 64, load := .data [(0, 1)] false 1 1 0 [] }
def refusingBack : State :=
  let s := refusing
  { s with blk := { s.blk with xfers := [xBack] } }
/-- A reduce Ford that has had its first arrival of the round. -/
def kLater : Core :=
  let k := kFord true false
  { k with img := { k.img with fords := [(at64 [(32, 128), (0, 4096)], at64 [(16, 1), (0, 2)])] }, fords := [⟨1, 2, [], 0⟩], store := Mem.wrAll [] (wordBytes 4096 (reduceWords 64 1 1 64)) }

theorem test_witness_DeliveriesReduceOrAreRefused :
    (∀ s : State, s.MoveOwned xData)
    ∧ (∀ g : Bool, (landing (kFord true g) xData).xfer? 0 = some xData ∧ (landing (kFord true g) xData).ready xData = true
      ∧ xData.refusal (landing (kFord true g) xData) = none ∧ ((kFord true g).fordEntry 0).map fordReduce = some true
      ∧ ((kFord true g).ford 0).first = true
      ∧ reduceBad (kFord true g) 0 4096 64 [(0, 1), (3, 0x80)] 1 1 64 = none)
    ∧ ((landing kLater xData).xfer? 0 = some xData ∧ (landing kLater xData).ready xData = true
      ∧ (kLater.fordEntry 0).map fordReduce = some true ∧ (kLater.ford 0).first = false
      ∧ xData.refusal (landing kLater xData) = none ∧ reduceBad kLater 0 4096 64 [(0, 1), (3, 0x80)] 1 1 64 = none)
    ∧ (refusingBack.xfer? 0 = some xBack ∧ xBack.refusal refusingBack = some .notPermitted ∧ refusingBack.ready xBack = true
      ∧ xBack.owner = .quiet 2 kSender.run.runs.toNat 0 ∧ refusingBack.core? 2 = some kSender)
    ∧ refusing.ready xStore = true ∧ refusing.xfer? 0 = some xStore ∧ xStore.refusal refusing = some .notPermitted
    ∧ xStore.owner = .instr 2 0 0
    ∧ refusing.core? 2 = some kSender ∧ kSender.run.state = .running := by
  refine ⟨fun s => instr_owned rfl, ?_, ?_, ?_, ?_⟩ <;> decide +kernel

def dTake (l : List Nat) : Drain := { (default : Drain) with ti := tDrain, toTake := l }
def kTake (l : List Nat) : Core :=
  { running tDrain with
    slots := [one .draining, .reset, { one .draining with eng := 1 }, .reset], flight := [⟨0, 0, .drain (dTake l)⟩], nextF := 1 }
def kTakeRows : Core :=
  let k := { running tDrain with flight := [⟨0, 0, .drain (dTake [0])⟩], nextF := 1 }
  { k with plain := { k.plain with sets := [{ rset with draining := true }] } }

/-- Where the crossing of the next tile of a drain of core c meets a marked word. -/
def tileStop (s : State) (c : Nat) (k : Core) (d : Drain) (i : Nat) (rest : List Nat) : Option HeldBack :=
  let r := k.takeTile c d i
  let e := s.readyDrain c { d with
    reads := d.reads.filter fun y => !((k.drainRowReads d).contains y)
    toTake := rest, tiles := d.tiles ++ [r.2.1], out := { d.out with guestLog := r.2.2.foldl mergeLog d.out.guestLog } }
  let a := Drain.crossPlace c 0 ((e.plan r.1).holdPos 0) (fun q => (e.tiles.getD q default).accElem) (r.1, e, none)
    d.tiles.length
  stopAt ((e.badElem k 0 ((e.plan k).holdPos 0) d.tiles.length (k.elemCells c e)).map
    fun y => (e.elemsBefore d.tiles.length + y.1, y.2)) a.2.2

theorem test_witness_DrainsTakeTheirTiles :
    (∀ l ∈ [[0], [0, 2]], (withCore 0 (kTake l)).Has 0 (kTake l) ∧ (kTake l).flight? 0 = some ⟨0, 0, .drain (dTake l)⟩
      ∧ (dTake l).ph = .taking ∧ (dTake l).stuck = false
      ∧ ((kTake l).flight.find? Flight.taking).map (·.id) = some 0 ∧ (dTake l).free (kTake l) = true
      ∧ (dTake l).toTake = 0 :: l.tail ∧ (kTake l).slots.length = 4
      ∧ tileStop (withCore 0 (kTake l)) 0 (kTake l) (dTake l) 0 l.tail = none)
    ∧ (withCore 1 kTakeRows).Has 1 kTakeRows ∧ kTakeRows.flight? 0 = some ⟨0, 0, .drain (dTake [0])⟩
    ∧ (kTakeRows.flight.find? Flight.taking).map (·.id) = some 0 ∧ (dTake [0]).free kTakeRows = true
    ∧ kTakeRows.slots.length = 4 ∧ tileStop (withCore 1 kTakeRows) 1 kTakeRows (dTake [0]) 0 [] = none := by
  unfold State.Has; decide +kernel

/-- A drain of one tile held before ROWAPPLY of bank 0, the one stage of its list. -/
def dHeld : Drain :=
  { (default : Drain) with
    ti := tDrain, list := [0, at64 [(59, 8)], 0], ph := .held, tiles := [⟨0, 1, 1, 256, 1, 1, .f32, 0, 0, [0]⟩], ords := [0] }
def kHeld (derived : Bool) : Core :=
  { running tDrain with groups := [⟨1, 1, derived⟩, .none], area := some 0, flight := [⟨0, 0, .drain dHeld⟩], nextF := 1 }

/-- Where the crossing of the held tiles of a drain of core c meets a marked word. -/
def heldStop (s : State) (c : Nat) (k : Core) (d : Drain) : Option HeldBack :=
  let hi := (d.plan k).holdPos (d.pos + 1)
  let e := s.readyDrain c d
  let a := e.heldTiles.foldl (Drain.crossPlace c e.pos hi
    fun q => (e.tiles.getD q default).heldElem k.store (areaBase (isCol c)) (e.ords.getD q 0)) (k, e, none)
  stopAt (e.heldTiles.findSome? fun q =>
    let t := e.tiles.getD q default
    (e.badElem k e.pos hi q fun i j => [(areaBase (isCol c) + 4 * (e.ords.getD q 0 * t.m * t.n + i * t.n + j), 4)]).map
      fun y => (e.elemsBefore q + y.1, y.2)) a.2.2

theorem test_witness_DeferredDrainsGoOn :
    (withCore 0 (kHeld false)).Has 0 (kHeld false) ∧ (kHeld false).derivable 0 = true ∧ 0 < (kHeld false).groups.length
    ∧ ((kHeld false).flight.filterMap (Flight.heldOn 0)).getLast? = some (dHeld, (at64 [(59, 8)], 0))
    ∧ (withCore 0 (kHeld true)).Has 0 (kHeld true) ∧ (kHeld true).flight? 0 = some ⟨0, 0, .drain dHeld⟩
    ∧ dHeld.holds = true ∧ dHeld.stuck = false ∧ dHeld.heldTiles = [0]
    ∧ heldStop (withCore 0 (kHeld true)) 0 (kHeld true) dHeld = none
    ∧ ((kHeld true).grp ((dHeld.plan (kHeld true)).bankAt dHeld.pos)).derived = true
    ∧ ((kHeld true).flight.find? fun y =>
        (Flight.heldOn ((dHeld.plan (kHeld true)).bankAt dHeld.pos) y).isSome).map (·.id) = some 0 := by
  unfold State.Has; decide +kernel

def dDone (st : Nat) : Drain := { (default : Drain) with ti := { tDrain with w3 := at64 [(62, st)] }, ph := .delivered }
def kDone (st : Nat) : Core := { running tDrain with flight := [⟨0, 0, .drain (dDone st)⟩], nextF := 1 }
def mergeOf (t : Nat) : LogEntry := ⟨t, 1, 1, at64 [(63, 1)], true⟩
/-- A merge of East's, which follows or is OFF, is first in line for the lead; core 15 awaits it. -/
def merging (follower : Bool) : State :=
  let s := two.setCore 15 { running tDrain with flight := [⟨0, 0, .merging⟩], nextF := 1, run := { RunSt.reset with tenant := 15 } }
  { s with
    aon := { s.aon with roleE := if follower then .follower else .off }
    blk := { s.blk with saddle := [(.west, .merge (mergeOf 15))] } }

theorem test_witness_DrainStatusIsMerged :
    (∀ st, st < 2 → (withCore 0 (kDone st)).Has 0 (kDone st) ∧ (kDone st).flight? 0 = some ⟨0, 0, .drain (dDone st)⟩
      ∧ (dDone st).ph = .delivered ∧ (dDone st).stuck = false ∧ (dDone st).out.guestLog = [] ∧ (dDone st).ti.stKind = st
      ∧ (kDone st).maskedBad ((dDone st).out.vecs ++
          if st = 1 then shift ((dDone st).ti.stAddr % 2 ^ 32) (numBytes 0 8 (dDone st).statusWord.toNat) else []) = none
      ∧ (withCore 0 (kDone st)).role ((withCore 0 (kDone st)).servedBy 0) = .lead
      ∧ (kDone st).run.tenant < (withCore 0 (kDone st)).auth.tens.length)
    ∧ (∀ st, st < 2 → let s := two.setCore 14 (kDone st);
      s.Has 14 (kDone st) ∧ s.role (s.servedBy 14) = .follower)
    ∧ (∀ f, (merging f).hasCp .west = true ∧ (merging f).role .west = .lead ∧ (merging f).role .east ≠ .lead
      ∧ (((merging f).cp .west).silent && (merging f).cpUp .east) = false ∧ (merging f).core? 15 ≠ none
      ∧ (merging f).blk.saddle = [(.west, .merge (mergeOf 15))] ∧ 15 < ((merging f).cp .west).ts.tens.length) := by
  unfold State.Has; decide +kernel

/-! ### Witnesses: packets and commands -/

/-- A packet of opcode op with the extra header bits and parameter words, in the named state, at host port 0 for tenant 0. -/
def cmd (op : Nat) (hdr : List (Nat × Nat)) (args : List Word) (st : PkSt) : Packet :=
  pk 0 (at64 ([(56, op), (48, args.length + 1), (24, 7)] ++ hdr) :: args) st
/-- The sealed block with that packet. -/
def hold (p : Packet) : State := addPkt sld p
def ready (op : Nat) (args : List Word) : Packet := cmd op [] args .ready
/-- It has acted on the cores. -/
def acted (op : Nat) (args : List Word) (cs : List Nat) : Packet := { cmd op [] args .running with acted := cs }

theorem test_witness_CompletionRepliesOrReturnsTheCredit :
    (hold (ready 0x01 [])).hp[(ready 0x01 []).port]? = some HostPort.reset ∧ (15 : Nat) < 16 ∧ 2 ^ 32 - 1 < 2 ^ 32
    ∧ (ready 0x01 []).quiet = false ∧ (cmd 0x01 [(17, 1)] [] .ready).quiet = true
    ∧ (hold (ready 0x01 [])).sealSilent (ready 0x01 []) = false
    ∧ (hold (ready 0x71 [])).hp[(ready 0x71 []).port]? = some HostPort.reset
    ∧ (hold (ready 0x71 [])).sealSilent (ready 0x71 []) = true
    ∧ (hold (cmd 0x01 [(17, 1)] [] .ready)).hp[(cmd 0x01 [(17, 1)] [] .ready).port]? = some HostPort.reset := by
  decide +kernel

def opcodes : List Nat :=
  [0x01, 0x02, 0x10, 0x11, 0x12, 0x13, 0x20, 0x21, 0x22, 0x30, 0x31, 0x40, 0x41, 0x42, 0x50, 0x51, 0x52, 0x53, 0x60, 0x70,
    0x71, 0x7F]
/-- A packet of West on core 15, which East serves: its order has been sent or not. -/
def orderly (b : Bool) (op : Nat) (args : List Word) : Packet := { ready op args with ordered := b }
/-- A packet of every opcode with a reserved header bit set, and a RUN of a fenced core. -/
def badHdr (op : Nat) : Packet := cmd op [(40, 1)] [] .ready
def kFenced : Core := { Core.reset with rep := { Repair.reset with coreFenced := true } }
def onFenced : State := addPkt (withCore 3 kFenced) (ready 0x21 [8])

theorem test_witness_PacketsCompleteOrFail :
    ((hold (ready 0x01 [])).Executes (ready 0x01 []) 0x01 ∧ (hold (ready 0x02 [])).Executes (ready 0x02 []) 0x02
      ∧ (hold (ready 0x50 [])).Executes (ready 0x50 []) 0x50)
    ∧ (∀ op ∈ opcodes, (hold (badHdr op)).pkt? 0 = some (badHdr op) ∧ (badHdr op).opcode = op
      ∧ (hold (badHdr op)).cpRuns .west = true ∧ (hold (badHdr op)).holds (badHdr op) = false
      ∧ (hold (badHdr op)).needsOrder (badHdr op) = false
      ∧ ((hold (badHdr op)).judge (badHdr op)).isSome = true)
    ∧ (∀ x ∈ [(0x20, [0x8000, 0]), (0x21, [0x8000]), (0x31, [0x8000, 0, 0]), (0x60, [0x8000, 1]), (0x7F, [])], ∀ b : Bool,
      let p := orderly b x.1 x.2; let s := addPkt two p;
      s.pkt? p.id = some p ∧ s.cpRuns p.half = true ∧ p.st = .ready ∧ s.holds p = false ∧ p.opcode = x.1 ∧ s.needsOrder p = !b)
    ∧ (onFenced.pkt? 0 = some (ready 0x21 [8]) ∧ onFenced.holds (ready 0x21 [8]) = false
    ∧ onFenced.needsOrder (ready 0x21 [8]) = false
      ∧ onFenced.judge (ready 0x21 [8]) = none ∧ onFenced.fencedBad (ready 0x21 [8]) = some ⟨.faultFenced, 4, 8⟩) := by
  unfold State.Executes; refine ⟨?_, ?_, ?_, ?_⟩ <;> decide +kernel

/-- The block with tenant 0's step open under id 5, poisoned or not. -/
def inStep (poison : Bool) (p : Packet) : State :=
  let s := hold p
  { s with blk := { s.blk with west := { s.blk.west with ts := { s.blk.west.ts with
      tens := { Tenant.reset with stepOpen := true, stepId := 5, poison := poison } :: List.replicate 15 .reset } } } }

theorem test_witness_StepsOpenAndCommit :
    ((hold (ready 0x40 [5])).Executes (ready 0x40 [5]) 0x40 ∧ (hold (ready 0x40 [5])).leads (ready 0x40 [5]) = true
      ∧ (hold (ready 0x40 [5])).follower? = false ∧ 0 < (hold (ready 0x40 [5])).auth.tens.length
      ∧ ((hold (ready 0x40 [5])).auth.ten 0).stepOpen = false)
    ∧ ((inStep false (ready 0x40 [5])).Executes (ready 0x40 [5]) 0x40
      ∧ ((inStep false (ready 0x40 [5])).auth.ten 0).stepOpen = true)
    ∧ (∀ b, (inStep b (ready 0x41 [5])).Executes (ready 0x41 [5]) 0x41 ∧ ((inStep b (ready 0x41 [5])).auth.ten 0).stepId = 5
      ∧ (inStep b (ready 0x41 [5])).leads (ready 0x41 [5]) = true ∧ (inStep b (ready 0x41 [5])).follower? = false)
    ∧ (hold (ready 0x41 [5])).Executes (ready 0x41 [5]) 0x41
    ∧ (inStep true (ready 0x41 [6])).Executes (ready 0x41 [6]) 0x41
    ∧ 0 < (inStep true (ready 0x41 [6])).auth.tens.length
    ∧ (let s := hold (ready 0x41 [5]);
      ({ s with blk := { s.blk with saddle := [(.west, .merge ⟨0, 0, 0, 0, true⟩)] } } : State).unmerged 0 = true) := by
  unfold State.Executes; refine ⟨?_, ?_, ?_, ?_, ?_, ?_, ?_⟩ <;> decide +kernel

/-- The same block, of whose memory ports every one has been withdrawn since the packet was dispatched. -/
def portless (p : Packet) : State :=
  let s := hold p
  { s with aon := { s.aon with withdrawn := [0, 1, 2, 3, 4] } }

theorem test_witness_ReadHealthWritesTheBlock : ∀ opt : Bool,
    (hold (cmd 0x52 [(18, opt.toNat)] [64] .ready)).Executes (cmd 0x52 [(18, opt.toNat)] [64] .ready) 0x52
    ∧ (hold (cmd 0x52 [(18, opt.toNat)] [64] .ready)).leads (cmd 0x52 [(18, opt.toNat)] [64] .ready) = true
    ∧ (hold (cmd 0x52 [(18, opt.toNat)] [64] .ready)).follower? = false
    ∧ (hold (cmd 0x52 [(18, opt.toNat)] [64] .ready)).aon.sealed = true
    ∧ 0 < (hold (cmd 0x52 [(18, opt.toNat)] [64] .ready)).auth.tens.length
    ∧ (let p := cmd 0x52 [(18, opt.toNat)] [64] .ready;
      let n := 8 * ((hold p).healthBlock 0 ((hold p).auth.coresOf 0)).length;
      (hold p).lostRange ((hold p).packetAddr ((hold p).started p) (fld (p.arg 1) 47 0) n) n = false
      ∧ (portless p).pkt? 0 = some p ∧ (portless p).cpRuns p.half = true ∧ (portless p).holds p = false
      ∧ (portless p).judge p = none ∧ p.todo = [] ∧ p.acted = []
      ∧ (portless p).fencedBad p = some ⟨.faultFenced, 7, (portless p).lostOf p⟩) := by
  unfold State.Executes; decide +kernel

/-- The block with no core bound, and packet p. -/
def unbound (p : Packet) : State :=
  let s := hold p
  { s with blk := { s.blk with west := { s.blk.west with ts := { s.blk.west.ts with bind := List.replicate 8 none } } } }

/-- Tenant 1 takes core 1 from tenant 0, which has an eviction area at the start of its window. -/
def pTake : Packet := cmd 0x10 [(36, 1)] [2] .ready
def evicting : State :=
  let s := hold pTake
  { s with aon := { s.aon with policy :=
    ((policy.set 1 (at64 [(63, 1), (32, 1), (0, 3)])).set 17 (at64 [(63, 1), (62, 1), (56, 1)])).set 22 (at64 [(63, 1)]) } }

theorem test_witness_BindTakesCores :
    ((unbound (ready 0x10 [3])).Executes (ready 0x10 [3]) 0x10 ∧ (ready 0x10 [3]).ordered = false
      ∧ ((ready 0x10 [3]).named (unbound (ready 0x10 [3]))).all ((unbound (ready 0x10 [3])).bindReady (ready 0x10 [3])) = true
      ∧ (unbound (ready 0x10 [3])).blk.xfers = []
      ∧ 1 ∈ (ready 0x10 [3]).named (unbound (ready 0x10 [3])) ∧ (unbound (ready 0x10 [3])).core? 1 = some Core.reset
      ∧ (∀ c, c < 8 → ((unbound (ready 0x10 [3])).cp .west).ts.bind.getD c none = none)
      ∧ ((unbound (ready 0x10 [3])).cp .west).ts.bind.length = 8)
    ∧ (evicting.Executes pTake 0x10 ∧ pTake.ordered = false ∧ pTake.named evicting = [1]
      ∧ (pTake.named evicting).all (evicting.bindReady pTake) = true ∧ evicting.bindIn (evicting.cp pTake.half).ts 1 = some 0
      ∧ evicting.tenEvict 0 = true ∧ (∀ c, c < 8 → (evicting.core c).bad = []))
    ∧ ((unbound (acted 0x10 [3] [0, 1])).Acted (acted 0x10 [3] [0, 1]) 0x10 ∧ (acted 0x10 [3] [0, 1]).reported = true
      ∧ (unbound (acted 0x10 [3] [0, 1])).leads (acted 0x10 [3] [0, 1]) = true
      ∧ (unbound (acted 0x10 [3] [0, 1])).mergedFor (acted 0x10 [3] [0, 1]) = true
      ∧ (unbound (acted 0x10 [3] [0, 1])).follower? = false
      ∧ (∀ c ∈ (acted 0x10 [3] [0, 1]).acted, c < (unbound (acted 0x10 [3] [0, 1])).auth.bind.length)) := by
  unfold State.Executes State.Acted; refine ⟨?_, ?_, ?_⟩ <;> decide +kernel

/-- A RUN that has been dispatched before RESET_TENANT of its tenant. -/
def pEarlier : Packet := { cmd 0x21 [] [4] .parked with id := 1 }
def pLater : Packet := { ready 0x7F [] with order := 1 }
def both (q p : Packet) : State := addPkt (hold q) p

theorem test_witness_ReleaseAndResetTenantComplete :
    ((hold (ready 0x11 [0x80])).Executes (ready 0x11 [0x80]) 0x11 ∧ (ready 0x11 [0x80]).ordered = false
      ∧ (hold (ready 0x11 [0x80])).core? 7 = some Core.reset ∧ Core.reset.rep.coreFenced = false
      ∧ ((ready 0x11 [0x80]).named (hold (ready 0x11 [0x80]))).all (hold (ready 0x11 [0x80])).releaseReady = true)
    ∧ ((hold (acted 0x11 [0x80] [7])).Acted (acted 0x11 [0x80] [7]) 0x11 ∧ (acted 0x11 [0x80] [7]).reported = true
      ∧ (hold (acted 0x11 [0x80] [7])).leads (acted 0x11 [0x80] [7]) = true
      ∧ (hold (acted 0x11 [0x80] [7])).mergedFor (acted 0x11 [0x80] [7]) = true
      ∧ (hold (acted 0x11 [0x80] [7])).follower? = false ∧ (hold (acted 0x11 [0x80] [7])).domOn 7 = true
      ∧ (∀ c ∈ (acted 0x11 [0x80] [7]).acted, c < (hold (acted 0x11 [0x80] [7])).auth.bind.length))
    ∧ ((hold (ready 0x7F [])).Executes (ready 0x7F []) 0x7F ∧ (ready 0x7F []).ordered = false
      ∧ ((ready 0x7F []).named (hold (ready 0x7F []))).all
          (fun c => (hold (ready 0x7F [])).releaseReady c && (hold (ready 0x7F [])).merged 0) = true)
    ∧ ((both pEarlier pLater).Executes pLater 0x7F ∧ (both pEarlier pLater).pkt? 1 = some pEarlier
      ∧ pEarlier.tenant = pLater.tenant ∧ pEarlier.dispatched = true ∧ pEarlier.order < pLater.order
      ∧ (both pEarlier pLater).sealSilent pEarlier = false ∧ (both pEarlier pLater).follower? = false
      ∧ (pLater.named (both pEarlier pLater)).all
          (fun c => (both pEarlier pLater).releaseReady c && (both pEarlier pLater).merged 0) = true)
    ∧ ((hold (acted 0x7F [] [0])).Acted (acted 0x7F [] [0]) 0x7F ∧ (acted 0x7F [] [0]).reported = true
      ∧ (hold (acted 0x7F [] [0])).mergedFor (acted 0x7F [] [0]) = true
      ∧ (hold (acted 0x7F [] [0])).leads (acted 0x7F [] [0]) = true ∧ (hold (acted 0x7F [] [0])).follower? = false
      ∧ 0 < (hold (acted 0x7F [] [0])).auth.tens.length) := by
  unfold State.Executes State.Acted; refine ⟨?_, ?_, ?_, ?_, ?_⟩ <;> decide +kernel

def pSave : Packet := ready 0x12 [2, 0]
def pRestore : Packet := ready 0x13 [2, 0]
/-- The block with the head of a record of core 1 at address 0 (R271). -/
def withRecord : State := { hold pRestore with mem := [(6, 0x40), (7, 1)] }
/-- A record of core 1 whose image is END alone and whose loop counters are inactive. -/
def imSaved : Image := ⟨[at64 [(56, 1), (54, 1), (32, 1)], 0, at64 [(48, 8)]], [tEnd], [], [], none⟩
def withImage : State := { sld with mem := Mem.wrAll [] (wordBytes 24 [at64 [(0, 2 ^ 64 - 1)]] ++ wordBytes 64 imSaved.hdr
  ++ wordBytes 0x1000 [tEnd.w0]) }

/-- A merge of tenant 0 is on its way. -/
def mergeDue (s : State) : State := { s with blk := { s.blk with saddle := [(.west, .merge (mergeOf 0))] } }
/-- The lead's copy is a generation ahead of the follower's. -/
def ahead (p : Packet) : State :=
  let s := addPkt two p
  { s with blk := { s.blk with west := { s.blk.west with ts := { s.blk.west.ts with gen := 1 } } } }

theorem test_witness_ContextsAreSavedAndRestored :
    ((hold pSave).Executes pSave 0x12 ∧ pSave.ordered = false
      ∧ (pSave.named (hold pSave)).all (fun c => ((hold pSave).core c).atRest) = true ∧ (hold pSave).mem.wf = true
      ∧ (∀ c ∈ pSave.named (hold pSave), c < (hold pSave).blk.cores.length) ∧ (hold pSave).blk.xfers = []
      ∧ (pSave.named (hold pSave)).any (fun c => !((hold pSave).core c).bad.isEmpty) = false)
    ∧ (withRecord.Executes pRestore 0x13 ∧ pRestore.ordered = false
      ∧ (∀ c ∈ pRestore.named withRecord, c < withRecord.blk.cores.length)
      ∧ (pRestore.named withRecord).all (fun c => (withRecord.core c).atRest) = true)
    ∧ (withRecord.packetAddr (withRecord.acting pRestore) (fld (pRestore.arg 2) 47 0) (ctxBytes (pRestore.named withRecord)) = 0
      ∧ withRecord.badRange (.fabric 0) 0 (ctxBytes (pRestore.named withRecord)) = false)
    ∧ (ctxPlaces (pRestore.named withRecord) 0 = [(1, 0)] ∧ withRecord.recordBad 0 1 0 = none)
    ∧ (ctxImage withImage.mem 0 = some imSaved ∧ checkImage withImage.cfg 1 withImage.blk.cores imSaved = none
      ∧ (∀ l, l < 4 → fld (withImage.mem.word 24) (16 * l + 15) (16 * l) = 0xFFFF) ∧ (withImage.core 1).rep.fenced = 0)
    ∧ ((hold (acted 0x12 [2, 0] [1])).Acted (acted 0x12 [2, 0] [1]) 0x12
      ∧ (hold (acted 0x13 [2, 0] [1])).Acted (acted 0x13 [2, 0] [1]) 0x13 ∧ (acted 0x12 [2, 0] [1]).reported = true
      ∧ (acted 0x13 [2, 0] [1]).reported = true)
    ∧ (∀ op ∈ [0x12, 0x13], let p := acted op [2, 0] [1];
      (hold p).mergedFor p = true ∧ (hold p).follower? = false
      ∧ (mergeDue (hold p)).Acted p op ∧ (mergeDue (hold p)).mergedFor p = false
      ∧ (addPkt two p).Acted p op ∧ (addPkt two p).mergedFor p = true ∧ (addPkt two p).follower? = true
      ∧ ((addPkt two p).cp (addPkt two p).leadHalf.other).ts.gen = (addPkt two p).auth.gen
      ∧ (ahead p).Acted p op ∧ (ahead p).mergedFor p = true ∧ (ahead p).follower? = true
      ∧ ((ahead p).cp (ahead p).leadHalf.other).ts.gen ≠ (ahead p).auth.gen) := by
  unfold State.Executes State.Acted; refine ⟨?_, ?_, ?_, ?_, ?_, ?_, ?_⟩ <;> decide +kernel

/-- A packet that acts on the named cores and waits for their boundaries. -/
def acting (op : Nat) (args : List Word) (todo done : List Nat) : Packet :=
  { cmd op [] args .acting with todo := todo, acted := done }
def kWait : Core := { running tSync with run := { RunSt.reset with state := .running, hold := true } }
def waiting (p : Packet) : State := addPkt (withCore 1 kWait) p
/-- Core c runs and is not at its boundary yet. -/
def kBusy : Core := { running tSync with flight := [⟨0, 0, .colPass [0] [0] false 3 false⟩], nextF := 1 }
def busyAt (c : Nat) (p : Packet) : State := (waiting p).setCore c kBusy
/-- The order of packet p has reached the cores after an earlier LOAD_PROGRAM of cores 0, 1 and 3, which waits. -/
def later (p : Packet) : Packet := { p with id := 1, order := 1, ordered := true }
def heldBack (p : Packet) : State := addPkt (waiting { ready 0x20 [11, 0] with st := .parked }) (later p)

theorem test_witness_SetSeedLoadsGenerators :
    ((waiting (ready 0x60 [3, 1])).Executes (ready 0x60 [3, 1]) 0x60
      ∧ (ready 0x60 [3, 1]).named (waiting (ready 0x60 [3, 1])) = [0, 1]
      ∧ ((ready 0x60 [3, 1]).named (waiting (ready 0x60 [3, 1]))).all ((waiting (ready 0x60 [3, 1])).coreFree (ready 0x60 [3, 1]))
          = true)
    ∧ (let p := ready 0x60 [3, 1];
      (busyAt 0 p).Executes p 0x60 ∧ p.named (busyAt 0 p) = [0, 1]
      ∧ (p.named (busyAt 0 p)).all ((busyAt 0 p).coreFree p) = false ∧ (busyAt 0 p).reaches p 0 = true
      ∧ (kBusy.run.state = .running))
    ∧ (∀ b : Bool, let p := acting 0x60 [3, at64 [(56, 1)]] [0, 1] [];
      let s := if b then busyAt 0 p else waiting p;
      s.pkt? 0 = some p ∧ p.st = .acting ∧ 1 ∈ p.todo ∧ s.Has 1 kWait ∧ kWait.atRest = true
      ∧ s.fencedBad p = none ∧ s.cpRuns p.half = true ∧ p.todo.all (s.coreFree p) = !b
      ∧ (p.ordered && s.coreHeld p) = false)
    ∧ (let p := later (acting 0x60 [3, at64 [(56, 1)]] [0, 1] []); let s := heldBack p;
      s.pkt? 1 = some p ∧ p.st = .acting ∧ 1 ∈ p.todo ∧ s.Has 1 kWait ∧ s.fencedBad p = none ∧ s.cpRuns p.half = true
      ∧ p.todo.all (s.coreFree p) = true ∧ (p.ordered && s.coreHeld p) = true)
    ∧ (let p := acting 0x60 [9, 1] [0, 3] [];
      let s := addPkt (withCore 3 kFenced) p;
      s.pkt? 0 = some p ∧ s.cpRuns p.half = true ∧ s.fencedBad p = some ⟨.faultFenced, 4, 8⟩
      ∧ (s.blk.cores.all fun k => k.plain.fills.all fun f => decide (f.pk ≠ some p.id)) = true)
    ∧ (let p := acting 0x60 [2, 1] [] [1];
      (waiting p).pkt? 0 = some p ∧ (waiting p).cpRuns p.half = true ∧ (waiting p).fencedBad p = none ∧ p.todo = []
      ∧ p.pagesLeft = 0 ∧ p.reported = true) := by
  unfold State.Executes State.Has; refine ⟨?_, ?_, ?_, ?_, ?_, ?_⟩ <;> decide +kernel

/-- An image of END for Plain cores, whose bucket is of length 8, at 0x2000, and a bucket table that names it for one core at
0x1000 (R184, R185, R255). -/
def imgWords : List Word :=
  [at64 [(56, 1), (54, 1), (32, 1)], 0, at64 [(48, 8)], at64 [(32, 96), (0, 0x13685300)], 0, 0, 0, 0, tEnd.w0, 0, 0, 0]
def images : Mem := Mem.wrAll [] (wordBytes 0x1000 [at64 [(56, 1), (40, 1)], 8, 0x2000] ++ wordBytes 0x2000 imgWords)
def ok? {α β : Type} : Except α β → Bool
  | .ok _ => true
  | .error _ => false

theorem ok_of {α β : Type} {r : Except α β} (h : ok? r = true) : ∃ x, r = .ok x := by
  cases r <;> simp [ok?] at h ⊢

def pLoad : Packet := ready 0x20 [2, 0x2000]
def loading : State := { hold pLoad with mem := images }

theorem test_witness_LoadProgramComplete :
    (loading.Executes pLoad 0x20 ∧ pLoad.ordered = false ∧ loading.core? 1 = some Core.reset
      ∧ (pLoad.named loading).all loading.idleCore = true ∧ pLoad.named loading = [1])
    ∧ (∃ im, loading.imageFor (loading.acting pLoad) (fld (pLoad.arg 2) 47 0) 1 = .ok im)
    ∧ ((hold (acted 0x20 [2, 0x2000] [1])).Acted (acted 0x20 [2, 0x2000] [1]) 0x20
      ∧ (acted 0x20 [2, 0x2000] [1]).reported = true) := by
  unfold State.Executes State.Acted
  refine ⟨by decide +kernel, ok_of (by decide +kernel), by decide +kernel⟩

/-- A core with a program loaded, or saved in the middle of it. -/
def kLoaded (st : RunState) : Core := { running tEnd with run := { RunSt.reset with state := st } }
def pRunOf (resume : Bool) : Packet := cmd 0x21 [(18, resume.toNat)] [4] .ready
/-- RUN with a parameter line for Ford 63, whose count is one below its greatest. -/
def pParam : Packet := cmd 0x21 [(6, 1), (0, 63)] [4, 7] .ready
def kParam : Core :=
  let k := kLoaded .loaded
  { k with
    img := { k.img with fords := List.replicate 63 (0, 1) ++ [(at64 [(32, 64), (0, 4096)], 1)] }
    fords := List.replicate 64 ⟨0xFFFFFE, 1, [], 0⟩ }
/-- Its cores have ended with the statuses; those that ended with FAULT_FENCED are fenced, or not. -/
def gathered (op : Nat) (args : List Word) (rs : List Nat) (fenced : Bool) : Packet :=
  { acted op args (List.range rs.length) with
    results := (List.range rs.length).zip rs |>.map fun x => ⟨x.1, BitVec.ofNat 8 x.2, 0, false, false, fenced && x.2 == 0x11⟩
    chunks := 1 }

theorem test_witness_RunsStartAndReply :
    (∀ b, (addPkt (withCore 2 (kLoaded .saved)) (pRunOf b)).Executes (pRunOf b) 0x21
      ∧ ((pRunOf b).named (addPkt (withCore 2 (kLoaded .saved)) (pRunOf b))).all
          (addPkt (withCore 2 (kLoaded .saved)) (pRunOf b)).idleCore = true
      ∧ (pRunOf b).ordered = false ∧ (pRunOf b).opt = b
      ∧ paramBad (pRunOf b) [kLoaded .saved] = none ∧ (kLoaded .saved).noRun = none)
    ∧ (let s := addPkt (withCore 2 kParam) pParam;
      s.Executes pParam 0x21 ∧ (pParam.named s).all s.idleCore = true ∧ pParam.named s = [2] ∧ s.core? 2 = some kParam
      ∧ bitOf pParam.hdr 6 = true ∧ paramBad pParam [kParam] = none ∧ kParam.noRun = none
      ∧ kParam.fordEntry 63 = some (at64 [(32, 64), (0, 4096)], 1) ∧ 63 < kParam.fords.length)
    ∧ ((addPkt (withCore 2 (kLoaded .loaded)) (pRunOf false)).Executes (pRunOf false) 0x21 ∧ (kLoaded .loaded).noRun = none)
    ∧ ((hold (acted 0x21 [0] [])).Acted (acted 0x21 [0] []) 0x21 ∧ (acted 0x21 [0] []).reported = true)
    ∧ (∀ rs ∈ [[0x00, 0x11, 0x11], [0x01, 0x00, 0x20]], ∀ f : Bool, let p := gathered 0x21 [7] rs f;
      (hold p).repaired p = true ∧ (hold p).Acted p 0x21 ∧ p.acted ≠ [] ∧ p.results.length = p.acted.length ∧ p.chunk = 0
        ∧ p.chunks = 1
      ∧ (hold p).merged 0 = true ∧ p.reported = true ∧ p.quiet = false ∧ (hold p).follower? = false)
    ∧ (two.follower? = true ∧ (two.cp two.leadHalf.other).ts.gen = two.auth.gen) := by
  unfold State.Executes State.Acted; refine ⟨?_, ?_, ?_, ?_, ?_, ?_⟩ <;> decide +kernel

/-- SELECT_BUCKET of the length, with the clamp option or without. -/
def pBucketOf (len : Nat) (opt : Bool) : Packet := cmd 0x22 [(18, opt.toNat)] [2, 0x1000, BitVec.ofNat 64 len] .ready
def pBucket : Packet := pBucketOf 8 false
def bucketingOf (p : Packet) : State := { hold p with mem := images }
def bucketing : State := bucketingOf pBucket
/-- A result that is there and passes a check. -/
def okWith {α β : Type} (f : β → Bool) : Except α β → Bool
  | .ok x => f x
  | .error _ => false

theorem ok_with {α β : Type} {f : β → Bool} {r : Except α β} (h : okWith f r = true) : ∃ x, r = .ok x ∧ f x = true := by
  cases r with
  | ok x => exact ⟨x, rfl, h⟩
  | error e => simp [okWith] at h

def pChunk : Packet := { gathered 0x22 [1, 0x1000, 16] [0x00] false with chunks := 2, bucketLen := 8 }
/-- Its last chunk has ended with the status, or its first one has. -/
def pLast (first : Bool) (st : BitVec 8) : Packet :=
  { pChunk with
    chunk := if first then 0 else 1
    results := (if first then [] else pChunk.results) ++ [⟨0, st, 0, false, false, false⟩] }
/-- The image is of bucket length 8 and of kind 0. -/
def fits (im : Image) : Bool := fld (im.hdr.getD 2 0) 63 48 == 8 && fld (im.hdr.getD 2 0) 47 32 == 0

theorem test_witness_SelectBucketRunsABucket :
    (∀ p ∈ [ready 0x22 [2, 0x1000, 0], ready 0x22 [0, 0x1000, 9]], (hold p).Executes p 0x22 ∧ p.ordered = false
      ∧ (p.named (hold p)).all (hold p).idleCore = true ∧ (p.coresMask = 0 ∨ fld (p.arg 3) 31 0 = 0))
    ∧ ((hold (acted 0x22 [2, 0x1000, 0] [])).Acted (acted 0x22 [2, 0x1000, 0] []) 0x22
      ∧ fld ((acted 0x22 [2, 0x1000, 0] []).arg 3) 31 0 = 0 ∧ (hold (acted 0x22 [0, 0x1000, 9] [])).Acted (acted 0x22 [0, 0x1000, 9] []) 0x22
      ∧ (acted 0x22 [0, 0x1000, 9] []).coresMask = 0)
    ∧ (∀ x ∈ [(1, false), (8, false), (9, false), (9, true), (2 ^ 32 - 1, true)],
      let p := pBucketOf x.1 x.2;
      (bucketingOf p).Executes p 0x22 ∧ p.ordered = false ∧ (p.named (bucketingOf p)).all (bucketingOf p).idleCore = true
      ∧ p.coresMask ≠ 0 ∧ fld (p.arg 3) 31 0 = x.1 ∧ p.opt = x.2 ∧ bitOf p.hdr 6 = false ∧ p.named (bucketingOf p) = [1])
    ∧ (fld (bucketing.mem.word (bucketing.packetAddr (bucketing.acting pBucket) (fld (pBucket.arg 2) 47 0) 8)) 51 48 + 1 = 1
      ∧ bucketing.mem.words 0x1000 3 = [at64 [(56, 1), (40, 1)], 8, 0x2000]
      ∧ bucketing.translate 0 (bucketing.acting pBucket).live 0 0x1000 24 = some 0x1000
      ∧ bucketing.inWindow 0 0x1000 24 = true ∧ bucketing.lostRange 0x1000 24 = false
      ∧ bucketing.badRange (.fabric 0x1000) 0 24 = false ∧ bucketBad (at64 [(56, 1), (40, 1)]) [8] [0x2000] 1 = false)
    ∧ (∃ im, bucketing.imageFor (bucketing.acting pBucket) 0x2000 1 = .ok im ∧ fits im = true)
    ∧ ((hold pChunk).Acted pChunk 0x22 ∧ pChunk.acted ≠ [] ∧ pChunk.chunkEnded = true ∧ pChunk.chunkGood pChunk.chunk = true
      ∧ pChunk.chunk + 1 < pChunk.chunks ∧ pChunk.acted.all (hold pChunk).idleCore = true
      ∧ pChunk.acted.Nodup ∧ bitOf pChunk.hdr 6 = false ∧ pChunk.lost = false ∧ (hold pChunk).fencedOf pChunk = 0
      ∧ (hold pChunk).merged pChunk.tenant = true)
    ∧ (∀ x ∈ [(false, 0x00), (false, 0x01), (false, 0x11), (true, 0x11)], let p := pLast x.1 x.2; let s := hold p;
      s.Acted p 0x22 ∧ p.acted ≠ [] ∧ p.chunkEnded = true ∧ (p.chunkGood p.chunk = false ∨ p.chunks ≤ p.chunk + 1)
      ∧ s.merged p.tenant = true ∧ s.repaired p = true ∧ p.reported = true ∧ p.quiet = false ∧ s.follower? = false
      ∧ p.chunk < 65535 ∧ p.bucket < 65536 ∧ p.bucketLen < 65536 ∧ carriesData x.2.toNat = !(x.2 == 0x11)
      ∧ p.chunkGood p.chunk = !(x.2 == 0x11))
    ∧ (let s := (hold pChunk).setCore 0 kFenced;
      s.Acted pChunk 0x22 ∧ pChunk.acted ≠ [] ∧ s.fencedOf pChunk ≠ 0 ∧ pChunk.acted.all s.idleCore = true
      ∧ s.merged pChunk.tenant = true ∧ pChunk.reported = true ∧ s.follower? = false)
    ∧ paramBad pBucket ([Core.reset].map fun k => k.choose .empty) = none
    ∧ paramBad pChunk (pChunk.acted.map (hold pChunk).core) = none := by
  unfold State.Executes State.Acted
  refine ⟨by decide +kernel, by decide +kernel, by decide +kernel, by decide +kernel, ok_with (by decide +kernel),
    by decide +kernel, by decide +kernel, by decide +kernel, rfl, rfl⟩

/-- MOVE of rows of 64 bytes from fabric memory or the store of core 0 to fabric memory, a store or a Ford (R254). -/
def pMove (sk dk rows : Nat) : Packet := cmd 0x30 [(14, sk), (12, dk)] [0, 0, at64 [(40, 64), (24, rows)]] .ready

theorem test_witness_MoveStartsATransfer :
    (∀ p ∈ kinds, (hold (pMove p.1 p.2 1)).Executes (pMove p.1 p.2 1) 0x30 ∧ (pMove p.1 p.2 1).moveVoid = false
      ∧ ((hold (pMove p.1 p.2 1)).core 0).touchesGuest 0 64 = false
      ∧ (∀ a ∈ [Loc.fabric 0, Loc.store 0 0], ∀ b ∈ [Loc.fabric 0, Loc.store 0 0, Loc.ford 0 0 0],
          (hold (pMove p.1 p.2 1)).skewPast b ((pMove p.1 p.2 1).moveTI.copy a) = false))
    ∧ (∀ dk, dk < 3 → (hold (pMove 0 dk 0)).Executes (pMove 0 dk 0) 0x30 ∧ (pMove 0 dk 0).moveVoid = true
      ∧ (pMove 0 dk 0).moveTI.xDstKind = dk) := by
  unfold State.Executes; refine ⟨?_, ?_⟩ <;> decide +kernel

theorem test_witness_FillPagesComplete :
    (let p := ready 0x31 [10, 0, at64 [(40, 1), (16, 1023), (0, 1)]];
      ∀ b : Bool, (let s := if b then busyAt 3 p else waiting p;
      s.Executes p 0x31 ∧ p.fillCount = 1 ∧ p.named s = [1, 3] ∧ p.pagesLeft = 0
      ∧ (p.named s).all (s.coreFree p) = !b ∧ s.reaches p 3 = true))
    ∧ (∀ b : Bool, let p := acting 0x31 [10, 0, at64 [(40, 1), (0, 1)]] [1, 3] [];
      let s := if b then busyAt 3 p else waiting p;
      s.pkt? 0 = some p ∧ 1 ∈ p.todo ∧ p.todo.Nodup ∧ s.Has 1 kWait ∧ s.fencedBad p = none
      ∧ kWait.atRest = true ∧ s.cpRuns p.half = true ∧ p.todo.all (s.coreFree p) = !b ∧ (p.ordered && s.coreHeld p) = false)
    ∧ (let p := later (acting 0x31 [10, 0, at64 [(40, 1), (0, 1)]] [1, 3] []); let s := heldBack p;
      s.pkt? 1 = some p ∧ 1 ∈ p.todo ∧ p.todo.Nodup ∧ s.Has 1 kWait ∧ s.fencedBad p = none ∧ s.cpRuns p.half = true
      ∧ p.todo.all (s.coreFree p) = true ∧ (p.ordered && s.coreHeld p) = true)
    ∧ (let p := acting 0x31 [2, 0, at64 [(40, 1), (0, 1)]] [] [1];
      (waiting p).pkt? 0 = some p ∧ (waiting p).cpRuns p.half = true ∧ (waiting p).fencedBad p = none ∧ p.acted ≠ []
      ∧ p.fillCount ≠ 0 ∧ p.pagesLeft = 0 ∧ p.reported = true) := by
  unfold State.Executes State.Has; refine ⟨?_, ?_, ?_, ?_⟩ <;> decide +kernel

theorem test_witness_TimersAreMarkedAndRead :
    ((hold (cmd 0x42 [(0, 31)] [0x81] .ready)).Executes (cmd 0x42 [(0, 31)] [0x81] .ready) 0x42
      ∧ (hold (acted 0x42 [1] [0])).Acted (acted 0x42 [1] [0]) 0x42 ∧ (acted 0x42 [1] [0]).reported = true)
    ∧ (∀ opt : Bool, (addPkt (withCore 3 kFenced) (cmd 0x51 [(18, opt.toNat)] [9, 64] .ready)).Executes
        (cmd 0x51 [(18, opt.toNat)] [9, 64] .ready) 0x51)
    ∧ ((hold (acted 0x51 [1, 64] [0])).Acted (acted 0x51 [1, 64] [0]) 0x51 ∧ (acted 0x51 [1, 64] [0]).reported = true) := by
  unfold State.Executes State.Acted; refine ⟨?_, ?_, ?_⟩ <;> decide +kernel

def pPolicy : Packet := cmd 0x70 [(0, 0x30F)] [at64 [(63, 1)]] .ready
/-- Before SEAL, a block whose policy is complete, with packet p. -/
def unsealed (p : Packet) : State := addPkt { up with aon := { up.aon with policy := policy } } p

def east (p : Packet) : State :=
  addPkt { openOf .mbf32 with aon := { (openOf .mbf32).aon with policy := policy.set 0 (at64 [(32, 1)]) } } p
/-- The same with the command processor of West, or of East, in reset. -/
def eastIn (west : Bool) (p : Packet) : State :=
  let s := east p
  { s with pins := { s.pins with cpwLow := west, cpeLow := !west } }
def portOn (s : State) : State := s.modHp 0 fun h => { h with en := true }

theorem test_witness_PolicyIsWrittenThenSealed :
    (∀ p ∈ [cmd 0x70 [(0, 0x30F)] [0] .ready, ready 0x71 []], (hold p).pkt? 0 = some p ∧ (hold p).cpRuns p.half = true
      ∧ p.st = .ready ∧ (hold p).holds p = false ∧ p.headerBad = none ∧ (hold p).aon.sealed = true)
    ∧ (policySlot pPolicy.polIdx = some (112, 1) ∧ (unsealed pPolicy).Executes pPolicy 0x70
      ∧ (unsealed pPolicy).aon.sealed = false ∧ (unsealed pPolicy).aon.policy.length = 113)
    ∧ ((unsealed (ready 0x71 [])).Executes (ready 0x71 []) 0x71 ∧ (unsealed (ready 0x71 [])).sealOk = true
      ∧ (unsealed (ready 0x71 [])).shaped = true ∧ (unsealed (ready 0x71 [])).polLeadEast = false
      ∧ (unsealed (ready 0x71 [])).sealSilent (ready 0x71 []) = true)
    ∧ (let s := portOn (unsealed (ready 0x71 []));
      s.Executes (ready 0x71 []) 0x71 ∧ s.sealOk = true ∧ s.shaped = true ∧ s.sealSilent (ready 0x71 []) = false
      ∧ (ready 0x71 []).quiet = false ∧ s.domOn 0 = true)
    ∧ (∀ w : Bool, let p := { ready 0x71 [] with half := if w then .east else .west };
      let s := eastIn w p;
      s.Executes p 0x71 ∧ s.sealOk = true ∧ s.shaped = true ∧ s.cpUp .west = !w ∧ s.cpUp .east = w)
    ∧ ((east (ready 0x71 [])).Executes (ready 0x71 []) 0x71 ∧ (east (ready 0x71 [])).sealOk = true
      ∧ (east (ready 0x71 [])).shaped = true ∧ (east (ready 0x71 [])).polLeadEast = true
      ∧ (east (ready 0x71 [])).cfg.hasEast = true ∧ (east (ready 0x71 [])).domOn 15 = true)
    ∧ (let s := portOn (addPkt { up with aon := { up.aon with policy := policy.set 17 0 } } (ready 0x71 []));
      s.Executes (ready 0x71 []) 0x71 ∧ s.sealOk = false) := by
  unfold State.Executes; refine ⟨?_, ?_, ?_, ?_, ?_, ?_, ?_⟩ <;> decide +kernel

/-! ### Witnesses: dispatch, replies and registers -/

def pWait : Packet := cmd 0x01 [] [] .waiting
def pPark : Packet := cmd 0x02 [] [] .parked

/-- What dispatch judges: the packet of half h as it is taken, and the state with it. -/
def taking (s : State) (h : Half) (p : Packet) : Packet := { p with half := h, order := s.blk.nextOrd, st := .parked }
def dispatching (s : State) (h : Half) (p : Packet) : State :=
  let s1 := s.modCp h fun k => { k with rr := (p.port + 1) % 8 }
  ({ s1 with blk := { s1.blk with nextOrd := s.blk.nextOrd + 1 } }).setPkt (taking s h p)
/-- A half that does not hold the current tenant state yet, and its RELEASE. -/
def pStale : Packet := cmd 0x11 [] [1] .waiting
def stale : State :=
  let s := addPkt two pStale
  { s with blk := { s.blk with west := { s.blk.west with current := false } } }

/-- The block with a reply that waits at port 7, whose ring is as named. -/
def replying (h : HostPort) : State :=
  let s := sld.modHp 7 fun _ => h
  { s with blk := { s.blk with replies := [⟨0, 1, 2, 0⟩, ⟨7, 3, 4, 0⟩] } }
def ring (en : Bool) (head tail : BitVec 16) : HostPort := { HostPort.reset with credits := 15, base := 1, en := en, head := head, tail := tail }

theorem test_witness_PacketsAreDispatchedAndAnswered :
    (let s := hold pWait;
      s.hasCp .west = true ∧ s.cpRuns .west = true ∧ s.nextPacket .west = some pWait ∧ s.pkt? 0 = some pWait
      ∧ (dispatching s .west pWait).judge (taking s .west pWait) = none
      ∧ (dispatching s .west pWait).leadHeld (taking s .west pWait) = false
      ∧ ((taking s .west pWait).named (dispatching s .west pWait)).all
          (fun c => decide ((dispatching s .west pWait).servedBy c = .west)) = true)
    ∧ (stale.hasCp .west = true ∧ stale.cpRuns .west = true ∧ stale.nextPacket .west = some pStale ∧ stale.pkt? 0 = some pStale
      ∧ (taking stale .west pStale).headerBad = none
      ∧ (dispatching stale .west pStale).leadHeld (taking stale .west pStale) = true)
    ∧ (let p := cmd 0x03 [] [] .waiting;
      let s := hold p;
      s.nextPacket .west = some p ∧ s.pkt? 0 = some p ∧ (taking s .west p).headerBad ≠ none
      ∧ (dispatching s .west p).judge (taking s .west p) = some (badField .malformed 0 56))
    ∧ ((hold pPark).pkt? 0 = some pPark ∧ pPark.st = .parked ∧ (hold pPark).cpRuns pPark.half = true
      ∧ (hold pPark).holds pPark = false ∧ (hold pPark).judge pPark = none
      ∧ (pPark.named (hold pPark)).all (fun c => decide ((hold pPark).servedBy c = pPark.half)) = true)
    ∧ (∀ h ∈ [ring true 0 0, ring false 0 0, ring true 0 1], (replying h).hp[7]? = some h ∧ (replying h).portsOpen = true
      ∧ (replying h).blk.replies.find? (fun x => x.port == 7) = some ⟨7, 3, 4, 0⟩)
    ∧ (replying (ring true 0 0)).lostRange 4096 16 = false
    ∧ (let s := replying (ring true 0 0);
      ({ s with aon := { s.aon with withdrawn := [0, 1, 2, 3, 4] } } : State).lostRange 4096 16 = true)
    ∧ (ring true 0 0).full = false ∧ (ring true 0 1).full = true ∧ (ring false 0 0).en = false := by
  refine ⟨?_, ?_, ?_, ?_, ?_, ?_, ?_, ?_⟩ <;> decide +kernel

/-- The command answers a next state in which core c holds another store, image or Ford. -/
def renews (s : State) (i : Instr) (c : Nat) : Bool :=
  match exec i s with
  | .next u => match u.core? c, s.core? c with
    | some k', some k => decide (k'.store ≠ k.store ∨ k'.img ≠ k.img ∨ k'.fords ≠ k.fords)
    | _, _ => false
  | _ => false
/-- The command answers a next state that is sealed. -/
def seals (s : State) (i : Instr) : Bool := match exec i s with | .next u => u.aon.sealed | _ => false

theorem test_witness_TenantsAreIsolated :
    ((withCore 0 kArm).shaped = true ∧ renewsCores (.arm 0) = false ∧ (withCore 0 kArm).Has 0 kArm
      ∧ renews (withCore 0 kArm) (.arm 0) 0 = true)
    ∧ (renews (landing Core.reset xStore) (.transferLanding 0) 0 = true ∧ (landing Core.reset xStore).shaped = true
      ∧ xStore.refusal (landing Core.reset xStore) = none ∧ locCore xStore.dst = some 0)
    ∧ (renews loading (.loadProgram 0) 1 = true ∧ loading.judge pLoad = none ∧ 1 ∈ pLoad.named loading ∧ loading.shaped = true)
    ∧ (∀ p ∈ [ready 0x21 [2], ready 0x11 [2], ready 0x12 [2, 0], ready 0x10 [2]], (hold p).aon.sealed = true
    ∧ (hold p).judge p = none
      ∧ 1 ∈ p.named (hold p) ∧ 1 < (hold p).cfg.nCores)
    ∧ (evicting.judge pTake = none ∧ 1 ∈ pTake.named evicting ∧ evicting.bindIn (evicting.cp pTake.half).ts 1 = some 0)
    ∧ ((hold (pMove 0 1 1)).judge (pMove 0 1 1) = none ∧ (hold (pMove 0 1 1)).hostExists (pMove 0 1 1).port = true
      ∧ (1, 0, 64, false) ∈ (pMove 0 1 1).ranges (hold (pMove 0 1 1)) ∧ aliasBad 0 = false)
    ∧ (sXfer 0 1 1).fabricAt (kXfer 0 1 1) 0 64 false = .ok 0
    ∧ ((unsealed (ready 0x71 [])).Executes (ready 0x71 []) 0x71 ∧ (unsealed (ready 0x71 [])).aon.sealed = false
      ∧ seals (unsealed (ready 0x71 [])) (.seal 0) = true) := by
  unfold State.Executes State.Has; refine ⟨?_, ?_, ?_, ?_, ?_, ?_, ?_, ?_⟩ <;> decide +kernel

/-- s at always-on time t. -/
def atTime (t : Nat) (s : State) : State := { s with aon := { s.aon with time := BitVec.ofNat 56 t } }
def tripped (b : Bool) : State :=
  let s := atTime 10 sld
  { s with aon := { s.aon with power := { s.aon.power with trip := b, request := b } } }

def doms (x : Nat → Dom) (sl : Sleep) (s : State) : State :=
  { s with aon := { s.aon with sleep := sl, asleep := decide (sl = .asleep), doms := (List.range s.cfg.nDoms).map x } }
/-- Domain d of the block changes. -/
def changing (d : Nat) (goal : Rest) : State := atTime 10 (doms (fun e => if e = d then .changing goal 10 else .still .on) .awake sld)
def asks (b : Bool) (s : State) : State := { s with pins := { s.pins with sleepReq := b, memSleepAck := [true] } }
def entering (r : Rest) : State :=
  asks true (doms (fun d => if d = sld.domAon then .still .on else if d < 8 then .still .off else .still r) .entering sld)
/-- An entry that is begun again while what an earlier one had sent to RETAIN comes back; or whose stacks do not hold yet. -/
def enteringAgain (back : Bool) : State :=
  let s := asks true (doms (fun d => if d = sld.domAon ∨ back = false then .still .on else .changing .on 20) .entering sld)
  { s with pins := { s.pins with memSleepAck := [back] } }
def asleep (req : Bool) : State :=
  asks req (doms (fun d => if d = sld.domAon then .still .on else .still .retain) .asleep sld)
/-- The block wakes since time 0, at time t: a core and a port group are in RETAIN still. -/
def wakingAt (t : Nat) : State :=
  atTime t (doms (fun d => if d = 0 ∨ d = sld.domGroup 0 then .still .retain else .still .on) (.waking 0) (asks false sld))
def waking : State :=
  let s := doms (fun _ => .still .on) (.waking 0) (asks false sld)
  { s with pins := { s.pins with memSleepAck := [false] } }
def port (h : HostPort) : State := sld.modHp 7 fun _ => h
def half (n : Nat) : HostPort := { HostPort.reset with credits := 15, asm := [at64 [(56, 0x21), (48, n)]], asmLen := n }

theorem test_witness_SubmittedWordsAssemble :
    (∀ h ∈ [HostPort.reset, { HostPort.reset with credits := 0 }, half 2, half 3], (port h).hp[7]? = some h
      ∧ (port h).portsOpen = true ∧ (port h).aon.asleep = false ∧ (port h).aon.sleep = .awake)
    ∧ HostPort.reset.asm = [] ∧ HostPort.reset.credits ≠ 0 ∧ fld (at64 [(48, 2)]) 55 48 = 2 ∧ fld (at64 [(48, 32)]) 55 48 = 32
    ∧ fld (at64 [(48, 33)]) 55 48 = 33 ∧ fld (at64 [(48, 1)]) 55 48 = 1
    ∧ (half 2).asm ≠ [] ∧ (half 2).asm.length + 1 = (half 2).asmLen ∧ (half 3).asm.length + 1 ≠ (half 3).asmLen
    ∧ (0x7F : BitVec 8) ≠ 0xFF
    ∧ (∀ b : Bool, (asleep b).portsOpen = true ∧ (asleep b).aon.asleep = true)
    ∧ (waking.portsOpen = true ∧ waking.aon.asleep = false ∧ waking.aon.sleep ≠ .entering)
    ∧ (∀ r ∈ [Rest.on, .retain], (entering r).portsOpen = true ∧ (entering r).aon.asleep = false
      ∧ (entering r).aon.sleep = .entering ∧ (entering r).shaped = true)
    ∧ (entering .retain).dom 8 = .still .retain ∧ 8 < sld.cfg.nDoms ∧ (entering .on).dom 8 = .still .on := by decide +kernel

/-- HP_REPLY_BASE of a ring at the start of tenant 0's window or past its end. -/
def wBase (base size en : Nat) : Word := at64 [(12, base), (4, en), (0, size)]
def past : HostPort := { HostPort.reset with base := 0x10000 }

theorem test_witness_PortRegistersAreAccessed :
    State.reset.portsOpen = false
    ∧ (∀ h ∈ [HostPort.reset, past, half 2], (port h).hp[7]? = some h ∧ (port h).portsOpen = true)
    ∧ (past.base.toNat = fld (wBase 0x10000 0 1) 47 12 ∧ past.size.toNat = fld (wBase 0x10000 0 1) 3 0
      ∧ bitOf (wBase 0x10000 0 1) 4 ≠ past.en ∧ (port past).aon.sealed = true
      ∧ (port past).ringInWindow 7 (4096 * 0x10000) 0 = false)
    ∧ (fld (wBase 256 8 1) 47 12 = 256 ∧ fld (wBase 256 8 1) 3 0 = 8
      ∧ (4096 * 256) % (16 * ringEntries 8) = 0 ∧ sld.ringPlaceOk 0 (4096 * 256) 8 = true ∧ HostPort.reset.credits = 16
      ∧ HostPort.reset.asm = [])
    ∧ (sld.ringInWindow 0 0 0 = true ∧ bitOf (wBase 0 0 1) 4 ≠ HostPort.reset.en)
    ∧ (bitOf (wBase 1 9 0) 4 = false ∧ fld (wBase 1 9 0) 3 0 = 9)
    ∧ bitOf (at64 [(5, 1)]) 5 = true ∧ (half 2).asm ≠ [] ∧ HostPort.reset.asm = [] ∧ bitOf (at64 [(6, 1)]) 5 = false
    ∧ 0x47 / 8 * 8 ∉ [0x08, 0x10, 0x18, 0x20, 0x28, 0x30, 0x38] ∧ HostPort.reset.credits ≤ 16 ∧ (half 2).asm.length ≤ 31 := by
  decide +kernel

/-- Cause 0 has fired in this tick, and host_wake is high or low. -/
def firing (high : Bool) : State :=
  { sld with pins := { sld.pins with hostWake := high }, aon := { sld.aon with cause := 0xF, firedNow := 1 } }

theorem test_witness_RegistersAreAccessed :
    (∀ b, (firing b).mgAccepts 0xFF = true ∧ (firing b).pins.hostWake = b ∧ (firing b).aon.firedNow.getLsbD 0 = true
      ∧ (firing b).aon.firedNow.getLsbD 3 = false ∧ bitOf (at64 [(0, 0xF)]) 3 = true
      ∧ (firing b).aon.cause &&& ~~~(BitVec.ofNat 4 (fld (at64 [(0, 0xF)]) 3 0) &&& ~~~(firing b).aon.firedNow) = 1) ∧
    (sld.hp[7]? = some HostPort.reset ∧ sld.portsOpen = true ∧ sld.mgAccepts 0xFF = true ∧ up.bootAccepts 0xFF = true
      ∧ up.aon.fuses.state = .idle)
    ∧ ({ up with aon := { up.aon with phase := .scanLock } } : State).aon.phase = .scanLock ∧ (0xFE : BitVec 8) ≠ 0xFF
    ∧ 0x1FF / 8 * 8 ∉ [0x20, 0x108, 0x110, 0x118, 0x130, 0x200, 0x600, 0x608, 0x1100]
    ∧ sld.aon.sealed = true ∧ up.aon.sealed = false ∧ up.mgAccepts 0xFF = true ∧ 10000 ≤ fld (at64 [(0, 10000)]) 16 0
    ∧ fld (at64 [(0, 100000)]) 16 0 ≤ 100000 ∧ fld (at64 [(0, 9999)]) 16 0 < 10000 ∧ 100000 < fld (at64 [(0, 100001)]) 16 0
    ∧ (up.aon.phase ≠ .scanLock ∧ State.reset.aon.phase = .reset)
    ∧ ((doms (fun d => if d = 7 then .still .off else .still .on) .awake up).regDomain 0x400 = some 0
      ∧ up.hasTaps 11 = true ∧ 11 < up.cfg.nDoms ∧ up.domOn 11 = true
      ∧ (doms (fun d => if d = 7 then .still .off else .still .on) .awake up).domOn 7 = false)
    ∧ (openOf .mbf64).cfg.nDoms = 40 := by
  constructorm* _ ∧ _ <;> decide +kernel

/-! ### Witnesses: power, sleep, time, surveys, fuses, resets -/

def wrapped (w : Wir) : State := { up with aon := { up.aon with wrap := { up.aon.wrap with wir := w } } }
/-- A block with the supply, the gate, the hottest code and the ceiling as named, after 7 calm windows or none. -/
def powered (vreq gate : Nat) (calm : Bool) (hot ceiling : Nat) : State :=
  let s := atTime 10 sld
  { s with aon := { s.aon with power := { s.aon.power with
    vreq := BitVec.ofNat 7 vreq, gate := BitVec.ofNat 4 gate, calm := List.replicate (if calm then 7 else 6) true
    hotCode := BitVec.ofNat 10 hot, ceiling := BitVec.ofNat 16 ceiling, request := false } } }
/-- A survey waits at 1.40 V for a floor above that, or stands below the floor that it waits for; the supply is asked for or not. -/
def climbing (vreq : Nat) (req : Bool) : State :=
  let s := sld
  { s with
    aon := { s.aon with power := { s.aon.power with
      floor := 30, vmax := 70, vreq := BitVec.ofNat 7 vreq, request := req } }
    blk := { s.blk with survey := some ⟨none, [0], .floor, 0, false, [], [], [], [], 0, 0, false⟩ } }
def sensing (b : Bool) (therm : Nat) : State :=
  { sld with aon := { sld.aon with thermArmed := b, therm := BitVec.ofNat 10 therm } }

theorem test_witness_PowerManagerSteps :
    (∀ b, (tripped b).portsOpen = true ∧ (tripped b).cpUp (tripped b).leadHalf = true ∧ (tripped b).aon.sleep = .awake
      ∧ (tripped b).past (tripped b).aon.power.windowAt 1 = true ∧ (tripped b).aon.power.trip = b
      ∧ (tripped b).aon.power.request = b ∧ (tripped b).aon.power.ceiling.toNat < 451)
    ∧ (let w := at64 [(0, 100)];
      (1 : BitVec 8) ≠ 0xFF ∧ 0x3F / 8 * 8 ∉ [0x00, 0x10, 0x20, 0x28, 0x30] ∧ 0x0F / 8 * 8 ≠ 0 ∧ fld w 15 0 = 100)
    ∧ ((powered 11 0 false 700 0xFFFF).aon.power.hotCode.toNat = 700 ∧ (powered 11 0 false 700 0xFFFF).aon.power.floor.toNat = 10
      ∧ (powered 11 0 false 700 0xFFFF).aon.power.tjLimit.toNat < 700)
    ∧ (∀ x ∈ [(11, 0), (10, 0), (10, 15), (70, 0), (70, 1), (11, 1)], ∀ b,
      let s := powered x.1 x.2 b 600 450;
      s.cpUp s.leadHalf = true ∧ s.past s.aon.power.windowAt 1 = true ∧ s.aon.power.vreq.toNat = x.1
      ∧ s.aon.power.gate.toNat = x.2 ∧ s.aon.power.request = false ∧ s.aon.power.trip = false ∧ s.aon.power.floor.toNat ≤ x.1
      ∧ x.1 ≤ s.aon.power.vmax.toNat ∧ s.aon.power.ceiling.toNat < 451
      ∧ ((decide (100 * 436 < 97 * s.aon.power.ceiling.toNat) :: s.aon.power.calm).take 8 = List.replicate 8 true ↔ b = true)
      ∧ s.aon.power.hotCode.toNat + 8 < s.aon.power.tjLimit.toNat)
    ∧ (List.replicate 64 756).length = 64 ∧ (∀ x ∈ List.replicate 64 756, x < 1024)
    ∧ ((asleep true).aon.asleep = true ∧ (atTime 10000 (asleep true)).past (asleep true).aon.sampledAt 1000 = true
      ∧ (∀ b, (sensing b 0x2A4).aon.thermArmed = b ∧ (sensing b 0x2A4).aon.therm.toNat = 676))
    ∧ (atTime 100 sld).aon.asleep = false ∧ (atTime 100 sld).past (atTime 100 sld).aon.sampledAt 10 = true
    ∧ (wrapped .intest).intest = true ∧ sld.intest = false
    ∧ (∀ x ∈ [(29, false), (30, true), (20, false)], let s := climbing x.1 x.2;
      s.mgAccepts 0xFF = true ∧ s.intest = false ∧ s.aon.power.floor.toNat = 30 ∧ s.aon.power.vreq.toNat = x.1
      ∧ s.blk.survey.map (fun v => (v.round, v.settled)) = some (.floor, false))
    ∧ (sld.pins.blkRstLow = false ∧ State.reset.pins.blkRstLow = true ∧ (atTime 100 State.reset).past 0 10 = true) := by
  decide +kernel

theorem test_witness_DomainsRestAndTheBlockSleeps :
    (∀ g ∈ [Rest.off, .retain, .on], (changing 0 g).Has 0 Core.reset ∧ (changing 0 g).shaped = true
      ∧ (changing 0 g).dom 0 = .changing g 10 ∧ (changing 0 g).reached 10 = true)
    ∧ (∀ g ∈ [Rest.off, .retain, .on], ∀ d ∈ [8, 10, 11], (changing d g).dom d = .changing g 10 ∧ (changing d g).reached 10 = true
      ∧ (changing d g).shaped = true ∧ (changing d g).groupsBack = true ∧ 8 ≤ d ∧ d < sld.cfg.nDoms)
    ∧ (let s := atTime 20 (enteringAgain true);
      s.dom 10 = .changing .on 20 ∧ s.reached 20 = true ∧ s.shaped = true ∧ s.groupsBack = false ∧ s.aon.sleep = .entering)
    ∧ (∀ b : Bool, let s := enteringAgain b;
      s.aon.sleep = .entering ∧ s.aon.cause = 0 ∧ s.valleyAway = false ∧ s.domOn s.domValley = !b ∧ s.stacksHold = b)
    ∧ (sld.domGroup 0 = 10 ∧ sld.domValley = 11 ∧ (∀ d ∈ [0, 10], (wakingAt 40).dom d = .still .retain
      ∧ (wakingAt 40).shaped = true ∧ (wakingAt 40).aon.sleep = .waking 0
      ∧ (wakingAt 40).reached ((wakingAt 40).halvesAfter 0 ((wakingAt 40).leaves d)) = true))
    ∧ (sld.aon.sleep ≠ .entering ∧ 0 < sld.cfg.nGroups ∧ (asks true sld).aon.sleep = .awake ∧ (asks true sld).maySleep = true)
    ∧ ((entering .on).aon.sleep = .entering ∧ (entering .on).aon.cause = 0 ∧ (entering .on).domOn (entering .on).domValley = true
      ∧ (entering .on).stacksHold = true ∧ (entering .on).shaped = true)
    ∧ ((entering .retain).aon.sleep = .entering ∧ (entering .retain).valleyAway = true
      ∧ (entering .retain).retained = true)
    ∧ (let s := entering .on;
      ({ s with aon := { s.aon with cause := 1 } } : State).aon.cause ≠ 0 ∧ s.dom 8 = .still .on
      ∧ (entering .retain).dom 8 = .still .retain)
    ∧ ((asleep false).aon.sleep = .asleep ∧ (asleep false).pins.sleepReq = false ∧ (asleep false).shaped = true
      ∧ (asleep false).dom 8 = .still .retain ∧ (asleep false).leaves 8 = 0 ∧ (asleep false).leaves 0 ≠ 0)
    ∧ (waking.aon.sleep = .waking 0 ∧ waking.allBack = true) := by
  unfold State.Has; constructorm* _ ∧ _ <;> decide +kernel

/-- The same where a core comes ON after step 3 of the entry. -/
def enteringLate : State :=
  let s := entering .retain
  { s with aon := { s.aon with doms := s.aon.doms.set 0 (.changing .on 10) } }

theorem test_witness_DomainsRestAndTheBlockSleeps_late :
    (enteringLate.aon.sleep = .entering ∧ enteringLate.aon.cause = 0 ∧ enteringLate.valleyAway = true
      ∧ enteringLate.retained = false ∧ enteringLate.shaped = true)
    ∧ (∀ b : Bool, (asleep b).aon.sleep = .asleep ∧ (asleep b).intest = false ∧ (asleep b).seen.sleepReq = b)
    ∧ (entering .on).intest = false ∧ (wrapped .intest).intest = true := by decide +kernel

def alarmed (t : Nat) : State :=
  let s := atTime t sld
  { s with aon := { s.aon with armed := true, alarm := 10, surveyAt := 0 } }
def old : State := { sld with aon := { sld.aon with busy := BitVec.ofNat 40 (2 ^ 40 - 1), time := BitVec.ofNat 56 (2 ^ 55) } }

theorem test_witness_TimeAndComparators :
    sld.aged = false ∧ sld.aon.surveyDue = false
    ∧ ({ alarmed 10 with aon := { (alarmed 10).aon with armedNow := true } } : State).aon.armedNow = true
    ∧ (alarmed 10).aon.armedNow = false ∧ (alarmed 10).aon.armed = true ∧ (alarmed 10).aon.alarm.toNat ≤ (alarmed 10).now
    ∧ (alarmed 9).now < (alarmed 9).aon.alarm.toNat
    ∧ (sld.intest = false ∧ (wrapped .intest).intest = true)
    ∧ sld.aon.armed = false ∧ old.aged = true ∧ old.aon.surveyDue = false ∧ old.autoSurvey = false := by decide +kernel

def surveyOf (doms : List Nat) : Survey := ⟨none, doms, .first, 0, false, [], [], [], [], 0, 0, false⟩
/-- A survey of core 0 alone has run for 1 ms. -/
def surveying : State :=
  let s := atTime 10000 sld
  { s with blk := { s.blk with survey := some (surveyOf [0]) } }
/-- The same for a packet. -/
def pSurvey : Packet := acting 0x53 [1] [] []
def asking : State :=
  let s := addPkt surveying pSurvey
  { s with blk := { s.blk with survey := some { surveyOf [0] with pk := some 0 } } }
/-- Measurements of the 16 groups of core 0 (R324): ring counts that exceed whatever the range correction of a group is, and
counts that fall short of any. -/
def enough : List Measure :=
  (List.range 16).map fun g => ⟨0, g, 37 + (Config.rangeCorrection 0 g 0x32 (List.replicate 64 0) 0x0A 0x46 0x290), 1, 0⟩
def short : List Measure := (List.range 16).map fun g => ⟨0, g, 0, 1, 0⟩

theorem margin_enough : ∀ m ∈ enough, retapAt ≤ surveying.margin m := by
  intro m hm
  obtain ⟨g, -, rfl⟩ := List.mem_map.1 hm
  have h : surveying.correction 0 g = (Config.rangeCorrection 0 g 0x32 (List.replicate 64 0) 0x0A 0x46 0x290 : Nat) := rfl
  simp only [State.margin, h, rawMargin, retapAt, Nat.cast_one, Int.tdiv_one, Nat.cast_add, Nat.cast_ofNat]
  omega

theorem margin_short : surveying.margin ⟨0, 0, 0, 1, 0⟩ < retapAt := by
  have h : surveying.correction 0 0 = (Config.rangeCorrection 0 0 0x32 (List.replicate 64 0) 0x0A 0x46 0x290 : Nat) := rfl
  simp only [State.margin, h, rawMargin, retapAt, Nat.cast_one, Int.tdiv_one, Nat.cast_zero]
  omega

def kTap : Core := { Core.reset with rep := { Repair.reset with tapPending := true } }
def tapping : State :=
  let s := withCore 0 kTap
  { s with blk := { s.blk with tapsDue := [(3, 1)] } }

theorem test_witness_SurveysMeasureAndRetap :
    ((hold (ready 0x53 [0])).Executes (ready 0x53 [0]) 0x53 ∧ (ready 0x53 [0]).coresMask = 0
      ∧ (hold (ready 0x53 [5])).Executes (ready 0x53 [5]) 0x53 ∧ (ready 0x53 [5]).coresMask ≠ 0
      ∧ 2 ∈ (ready 0x53 [5]).named (hold (ready 0x53 [5])) ∧ (ready 0x53 [5]).ordered = false)
    ∧ (∀ o ∈ [none, some 3], let p := { orderly true 0x53 [0x8000] with order2 := o }; let s := addPkt two p;
      s.Executes p 0x53 ∧ p.ordered = true ∧ p.order2 = o ∧ p.coresMask ≠ 0)
    ∧ (asking.blk.survey = some { surveyOf [0] with pk := some 0 } ∧ asking.pkt? 0 = some pSurvey ∧ pSurvey.opcode = 0x53
      ∧ asking.past 0 64 = true ∧ pSurvey.reported = true)
    ∧ (surveying.blk.survey = some (surveyOf [0]) ∧ (surveyOf [0]).latest = [] ∧ surveying.surveyFixes (surveyOf [0]) = false
    ∧ (surveyOf [0]).doms.Nodup ∧ surveying.past 0 64 = true ∧ surveying.since 0 < 2 ^ 55)
    ∧ (pickGroups enough (surveying.roundGroups (surveyOf [0])) = enough
      ∧ enough.length = (surveying.roundGroups (surveyOf [0])).length ∧ ∀ m ∈ enough, retapAt ≤ surveying.margin m)
    ∧ (pickGroups short (surveying.roundGroups (surveyOf [0])) = short
      ∧ short.length = (surveying.roundGroups (surveyOf [0])).length ∧ ⟨0, 0, 0, 1, 0⟩ ∈ short
      ∧ surveying.margin ⟨0, 0, 0, 1, 0⟩ < retapAt ∧ surveying.tapOf 0 0 < 15 ∧ surveying.shaped = true)
    ∧ (tapping.Has 0 kTap ∧ tapping.domOn 0 = true ∧ kTap.repairable = true ∧ kTap.rep.stopped = []
    ∧ tapping.blk.tapsDue = [(3, 1)] ∧ 3 / 16 = 0) := by
  unfold State.Executes State.Has
  exact ⟨by decide +kernel, by decide +kernel, by decide +kernel, by decide +kernel, ⟨rfl, by decide +kernel, margin_enough⟩,
    ⟨by decide +kernel, by decide +kernel, by decide +kernel, margin_short, by decide +kernel, by decide +kernel⟩,
    by decide +kernel⟩

def inPhase (p : Phase) : State := { up with aon := { up.aon with phase := p } }
def fuseAt (st : FuseOp) (s : State) : State := { s with aon := { s.aon with fuses := { s.aon.fuses with state := st } } }
def reloading : State := { fuseAt .reload up with aon := { (fuseAt .reload up).aon with phase := .fuseRead } }
def burning (void : Bool) (r : Word) : State :=
  let s := atTime 2000 (fuseAt (.burning void 0) up)
  { s with aon := { s.aon with fuses := { s.aon.fuses with recs := Tab.set 0 [] 1024 r } } }

theorem test_witness_FuseOperationsComplete :
    (∀ ph ∈ [Phase.init, .ready, .opened], (inPhase ph).bootAccepts 0xFF = true ∧ (inPhase ph).aon.fuses.state = .idle
      ∧ ((inPhase ph).aon.phase = .init ∨ (inPhase ph).aon.phase = .ready ∨ (inPhase ph).aon.phase = .opened))
    ∧ (up.intest = false ∧ (fuseAt (.waitHigh false) up).intest = false ∧ (wrapped .intest).intest = true)
    ∧ (∀ op, op < 3 → up.bootAccepts 0xFF = true ∧ up.aon.fuses.state = .idle ∧ bitOf (at64 [(63, 1), (8, op)]) 63 = true
      ∧ up.aon.phase = .opened ∧ fld (at64 [(63, 1), (8, op)]) 9 8 = op)
    ∧ (∀ v, (fuseAt (.waitHigh v) up).aon.fuses.state = .waitHigh v)
    ∧ (fuseAt (.waitLow 1) up).aon.fuses.state = .waitLow 1
    ∧ ((burning false 5).aon.fuses.state = .burning false 0 ∧ (burning false 5).past 0 200 = true
      ∧ (burning false 5).aon.fuses.slotRec ≠ 0 ∧ Tab.wf 0 (burning false 5).aon.fuses.recs = true
      ∧ Tab.wf 0 (burning true 5).aon.fuses.recs = true)
    ∧ ((burning true 0).aon.fuses.state = .burning true 0 ∧ (burning true 0).aon.fuses.slotRec = 0)
    ∧ (reloading.aon.phase = .fuseRead ∧ reloading.aon.fuses.state = .reload ∧ reloading.core? 7 = some Core.reset
      ∧ ∀ h ∈ reloading.hp, h.stall = []) := by
  decide +kernel

theorem test_witness_ResetsAct :
    ((∀ b : Bool, (sealedOf (if b then .mbf32 else .mbf16)).edgeLevel .hostStrobes = .driven)
      ∧ State.reset.edgeLevel .hostStrobes ≠ .driven
      ∧ up.pins.blkRstLow = false ∧ sld.shaped = true ∧ two.shaped = true
      ∧ (doms (fun d => if d = 8 then .still .off else .still .on) .awake sld).dom (sld.domCp .west) = .still .off
      ∧ State.reset.pins.blkRstLow = true ∧ State.reset.hasCp .west = true ∧ two.pins.blkRstLow = false ∧ two.hasCp .east = true
      ∧ two.hasCp .west = true
      ∧ (port (half 2)).hp[7]? = some (half 2) ∧ sld.hp[0]? = some HostPort.reset)
    ∧ ∀ v t, sld.aon.fuses.state ≠ .burning v t :=
  ⟨by decide +kernel, fun _ _ => nofun⟩

theorem test_witness_BootPhasesComplete :
    (inPhase .fuseRead).aon.phase = .fuseRead ∧ (inPhase .fuseRead).aon.fuses.state ≠ .reload ∧ up.pins.blkRstLow = false
    ∧ (inPhase .init).aon.phase = .init ∧ (inPhase .init).pins.cpwLow = false ∧ (inPhase .init).pins.cpeLow = false
    ∧ (∀ h ∈ (inPhase .ready).hp, h.stall = []) ∧ (inPhase .init).core? 0 = some Core.reset
    ∧ (inPhase .ready).aon.phase = .ready := by decide +kernel

/-- WS_INTEST with every cell of the boundary register at b, and every input driven at the inverse. -/
def intesting (b : Bool) : State :=
  let s := wrapped .intest
  { s with aon := { s.aon with
      wrap := { s.aon.wrap with wbr := List.replicate 100000 b, driven := List.replicate 100000 !b }
      fuses := { s.aon.fuses with state := .waitHigh false }, sleep := .asleep } }

theorem getD_replicate {n i : Nat} (b : Bool) (h : i < n) : (List.replicate n b).getD i false = b := by
  simp [List.getD, h]

theorem cell_intesting (b : Bool) (i : Nat) (h : i < 100000) : (intesting b).aon.wrap.wbr.getD i false = b :=
  getD_replicate b h

theorem getD_ports (f : Nat → Bool) : ((List.range Configuration.mbf16.nPorts).map f).getD 4 false = f 4 := rfl

theorem seen_intesting (b : Bool) :
    (intesting b).seen.hostWake = !b ∧ (intesting b).seen.vppAck = !b ∧ (intesting b).seen.sleepReq = !b
      ∧ (intesting b).seen.memFatal.getD 4 false = !b := by
  have h : ∀ i, i < 100000 → (intesting b).aon.wrap.driven.getD i false = !b := fun i hi => getD_replicate (!b) hi
  have hi : (intesting b).intest = true := rfl
  simp only [State.seen, hi, if_true]
  exact ⟨h _ (by decide : Configuration.mbf16.hostWakeCell < 100000),
    h _ (by decide : Configuration.mbf16.vppAckCell < 100000), h _ (by decide : Configuration.mbf16.sleepReqCell < 100000),
    (getD_ports _).trans (h _ (by decide : Configuration.mbf16.memPortCell 4 + 13146 < 100000))⟩

theorem test_witness_WrapperInstructionsLoad_intest : ∀ b : Bool,
    (intesting b).aon.wrap.wir = .intest ∧ (intesting b).aon.sealed = false ∧ (intesting b).aon.sleep ≠ .entering
    ∧ (intesting b).aon.sleep = .asleep ∧ (intesting b).aon.fuses.state = .waitHigh false
    ∧ ((intesting b).seen.hostWake = !b ∧ (intesting b).seen.vppAck = !b ∧ (intesting b).seen.sleepReq = !b
      ∧ (intesting b).seen.memFatal.getD 4 false = !b)
    ∧ ((intesting b).domOn ((intesting b).domGroup (4 / 5)) = true ∧ 4 ∈ (intesting b).aon.listA ∧ 4 < (intesting b).cfg.nPorts)
    ∧ (∀ q, q < 5 → ∀ i ∈ [4913, 13142, 13143, 13144, 13145, 13146],
        (intesting b).aon.wrap.wbr.getD ((intesting b).cfg.memPortCell q + i) false = b)
    ∧ ∀ i ∈ [(intesting b).cfg.vcoreAckCell, (intesting b).cfg.vppAckCell, (intesting b).cfg.sleepReqCell,
        (intesting b).cfg.hostWakeCell, (intesting b).cfg.memAckCell 0], (intesting b).aon.wrap.wbr.getD i false = b := by
  intro b
  refine ⟨rfl, rfl, nofun, rfl, rfl, seen_intesting b, by cases b <;> decide, fun q hq i hi => cell_intesting b _ ?_,
    fun i hi => cell_intesting b i ?_⟩
  · have h : ∀ i ∈ [4913, 13142, 13143, 13144, 13145, 13146], i < 13147 := by decide
    have hc : (intesting b).cfg.memPortCell q = 8 * 151 + 13147 * q := rfl
    have := h i hi
    omega
  have h : ∀ i ∈ [Configuration.mbf16.vcoreAckCell, Configuration.mbf16.vppAckCell, Configuration.mbf16.sleepReqCell,
    Configuration.mbf16.hostWakeCell, Configuration.mbf16.memAckCell 0], i < 100000 := by decide
  exact h i hi

theorem test_witness_WrapperInstructionsLoad :
    sld.aon.sealed = true ∧ up.aon.sealed = false ∧ up.pins.blkRstLow = false
    ∧ ({ sld with aon := { sld.aon with wrap := { sld.aon.wrap with wir := .extest } } } : State).aon.wrap.wir.refused = true
    ∧ ((wrapped .scan).edgeLevel .testParallel = .driven ∧ (wrapped .mbist).edgeLevel .testParallel = .driven
      ∧ up.edgeLevel .testParallel ≠ .driven)
    ∧ (wrapped (.reserved 0xF)).aon.wrap.wir = .reserved 0xF ∧ (wrapped .scan).shaped = true
    ∧ (wrapped .scan).core? 0 = some Core.reset
    ∧ (wrapped .fuseRd).aon.wrap.pos < 64 * 1280 ∧ (wrapped .sensor).aon.wrap.wir = .sensor
    ∧ (wrapped .bypass).aon.wrap.wir = .bypass ∧ (wrapped .extest).aon.wrap.wir = .extest := by decide +kernel

/-! ### Witnesses: faults and repair -/

def lane : Place := .colLane 0 131 131 false
def recOf : Word := at64 [(47, 1), (43, 1)]
/-- Core 0 with a pass of engine 0 under way into slot 0. -/
def kPassing : Core :=
  { running tOpen with slots := [one .acc, .reset, .reset, .reset], flight := [⟨0, 0, .colPass [0] [0] false 3 false⟩], nextF := 1 }
def kStopped : Core :=
  { kPassing with
    slots := [one .dirty, .reset, .reset, .reset], rep := { kPassing.rep with lastDet := some (lane, 0), stopped := [(0, some lane)] } }
/-- The pass and another one of its engine, where the lane has failed before. -/
def kPassAgain : Core :=
  { kPassing with
    rep := { kPassing.rep with lastDet := some (lane, 0) }
    flight := kPassing.flight ++ [⟨1, 0, .colPass [0] [0] false 3 false⟩], nextF := 2 }
/-- Core 1 with a Plain pass under way over slot 0, whose page has a record of source 0, and which has read bad parity or not. -/
def kReading (bad : Bool) : Core :=
  let k := kRowPass false bad false false
  { k with plain := { k.plain with sets := [rset], recs := [(0, (recOf, 0))] } }
/-- The pass has stopped; its row waits for a steer or not. -/
def kRowStopped (steer : Bool) : Core :=
  let k := kReading false
  { k with
    plain := { k.plain with sets := [{ rset with dirty := true }] }
    rep := { k.rep with
      stopped := [(0, some (.planeRow 519))], defect := if steer then [(.place (.planeRow 519), 0)] else [] } }
def basin : Place := .basin 0 0 65535
def dFault (r : List Place) (ph : DrainPh) : Drain := { (default : Drain) with ti := tDrain, ph := ph, restarts := r }
def kFault (r : List Place) (ph : DrainPh) : Core := { running tDrain with flight := [⟨0, 0, .drain (dFault r ph)⟩], nextF := 1 }
/-- The same core, whose last detection was at the place. -/
def kAgain (r : List Place) (pl : Place) : Core :=
  let k := kFault r .held
  { k with rep := { k.rep with lastDet := some (pl, 0) } }

/-- The same pass, where a line of the re-fill of its slot is lost. -/
def kLost (bad : Bool) : Core :=
  let k := kReading bad
  { k with plain := { k.plain with rereads := [(3, 5)] } }

theorem refill_reads {s : State} {k : Core} (hw : s.aon.withdrawn = []) (hf : s.flagged = []) (hr : k.plain.rereads = [])
    (l : List (Nat × Word × Word)) : s.refillLost k l = false := by
  simp [State.refillLost, State.recsLost, State.badRange, State.lostRange, hw, hf, hr]

theorem test_witness_FaultsStopPassesAndDrains_passes :
    ((withCore 0 kPassing).Has 0 kPassing ∧ kPassing.flight? 0 = some ⟨0, 0, .colPass [0] [0] false 3 false⟩
      ∧ kPassing.isStopped 0 = false ∧ kPassing.rep.coreFenced = false ∧ (withCore 0 kPassing).recurrent kPassing lane 0 = false
      ∧ kPassing.passSlots [0] [0] = [0] ∧ (kPassing.slot 0).st = .acc ∧ 0 < kPassing.slots.length)
    ∧ ((withCore 0 kPassAgain).Has 0 kPassAgain ∧ kPassAgain.flight? 0 = some ⟨0, 0, .colPass [0] [0] false 3 false⟩
      ∧ kPassAgain.isStopped 0 = false ∧ kPassAgain.rep.coreFenced = false
      ∧ (withCore 0 kPassAgain).recurrent kPassAgain lane 0 = true ∧ kPassAgain.fixFences (.place lane) = false
      ∧ kPassAgain.steers lane = false ∧ kPassAgain.passOn (engOf lane) ⟨1, 0, .colPass [0] [0] false 3 false⟩ = true)
    ∧ (∀ bad : Bool, (withCore 1 (kReading bad)).Has 1 (kReading bad)
      ∧ (kReading bad).flight? 0 = some ⟨0, 0, .plainPass 0 false 1 0 1 false bad⟩
      ∧ (kReading bad).isStopped 0 = false ∧ (kReading bad).rep.coreFenced = false
      ∧ (withCore 1 (kReading bad)).recurrent (kReading bad) (.planeRow 519) 0 = false ∧ (kReading bad).rowSet? false 0 = some rset
      ∧ ((kReading bad).upset none).plain.pageBad 1 0 = false ∧ ((kReading bad).upset (some (2 ^ 18 - 1))).plain.pageBad 1 0 = true)
    ∧ (∀ bad up l, (withCore 1 (kReading bad)).refillLost ((kReading bad).upset up) l = false)
    ∧ (∀ bad : Bool, let k := kLost bad; let k1 := k.upset (some (2 ^ 18 - 1));
      (withCore 1 k).Has 1 k ∧ k.flight? 0 = some ⟨0, 0, .plainPass 0 false 1 0 1 false bad⟩ ∧ k.isStopped 0 = false
      ∧ k.rep.coreFenced = false ∧ k.rowSet? false 0 = some rset ∧ k1.plain.pageBad 1 0 = true
      ∧ (withCore 1 k).refillLost k1
          (k.plain.recs.filter fun e => ((pageSlots 1 0).filter k1.plain.parityBad).contains e.1) = true)
    ∧ ((withCore 0 kStopped).Has 0 kStopped ∧ kStopped.flight? 0 = some ⟨0, 0, .colPass [0] [0] false 3 false⟩
      ∧ kStopped.rep.stopped = [(0, some lane)] ∧ kStopped.awaitsSteer (0, some lane) = false)
    ∧ (∀ b : Bool, (withCore 1 (kRowStopped b)).Has 1 (kRowStopped b)
      ∧ (kRowStopped b).flight? 0 = some ⟨0, 0, .plainPass 0 false 1 0 1 false false⟩
      ∧ (kRowStopped b).rep.stopped = [(0, some (.planeRow 519))]
      ∧ (kRowStopped b).awaitsSteer (0, some (.planeRow 519)) = b
      ∧ (kRowStopped b).rowSet? false 0 = some { rset with dirty := true })
    ∧ (∀ l, (withCore 1 (kRowStopped false)).refillLost (kRowStopped false) l = false) := by
  unfold State.Has
  refine ⟨?_, ?_, ?_, fun bad up => refill_reads rfl rfl (by cases up <;> rfl), ?_, ?_, ?_, refill_reads rfl rfl rfl⟩
    <;> decide +kernel

theorem test_witness_FaultsStopPassesAndDrains_drains :
    (∀ ph ∈ [DrainPh.taking, .held], ∀ r ∈ [[], [basin]], (withCore 0 (kFault r ph)).Has 0 (kFault r ph)
      ∧ (kFault r ph).flight? 0 = some ⟨0, 0, .drain (dFault r ph)⟩ ∧ (dFault r ph).stuck = false
      ∧ (kFault r ph).rep.coreFenced = false ∧ (withCore 0 (kFault r ph)).recurrent (kFault r ph) basin 0 = false)
    ∧ (basin ∉ (dFault [] .held).restarts ∧ basin ∈ (dFault [basin] .held).restarts)
    ∧ (∀ r ∈ [[], [basin]], (withCore 0 (kAgain r basin)).Has 0 (kAgain r basin)
      ∧ (kAgain r basin).flight? 0 = some ⟨0, 0, .drain (dFault r .held)⟩ ∧ (kAgain r basin).rep.coreFenced = false
      ∧ (withCore 0 (kAgain r basin)).recurrent (kAgain r basin) basin 0 = true
      ∧ ((kAgain r basin).setFlight ⟨0, 0, .drain { dFault r .held with stuck := true }⟩).fixFences (.place basin) = false)
    ∧ ((withCore 0 kRefilling).Has 0 kRefilling ∧ kRefilling.flight? 0 = some ⟨0, 0, .refill 0 0 64 0 true⟩
      ∧ kRefilling.isStopped 0 = false ∧ (kRefilling.slot 0).st = .acc ∧ 0 < kRefilling.slots.length
      ∧ (withCore 0 kRefilling).recurrent kRefilling lane 0 = false)
    ∧ (∀ b : Bool, let k : Core := { kSpilling with rep := { kSpilling.rep with lastDet := if b then some (lane, 0) else none } };
      (withCore 0 k).Has 0 k ∧ k.flight? 0 = some ⟨0, 0, .spill 0 3 64 false⟩
      ∧ k.rep.coreFenced = false ∧ (withCore 0 k).recurrent k lane 0 = b ∧ k.fixFences (.place lane) = false) := by
  unfold State.Has
  refine ⟨?_, ?_, ?_, ?_, ?_⟩ <;> decide +kernel

def kDefect (f : Fix) : Core :=
  { Core.reset with rep := { Repair.reset with colsEx := [[0, 1, 2], []], defect := [(f, 0)] } }
/-- A core whose engines have the named physical columns, and rows, excluded, and the named engines fenced. -/
def kWorn (cols rows : List Nat) (fenced : BitVec 4) (f : Fix) : Core :=
  { Core.reset with
    rep := { Repair.reset with colsEx := [cols, cols], rowsEx := rows, fenced := fenced, defect := [(f, 0)] } }
def four : List Nat := [0, 1, 2, 3]
/-- A Plain core with n spare plane rows in use. -/
def kSteer (n : Nat) (pl : Place) : Core :=
  { Core.reset with
    rep := { Repair.reset with planeSpare := (List.range n).map fun i => (i + 9, i), defect := [(.place pl, 0)] } }
/-- The lead deems the other side silent, which serves cores of tenant 0; core 7 is to be bound to that. -/
def recoveringSplit : State :=
  { two with blk := { two.blk with recover := [(7, 0)], west := { two.blk.west with silent := true } } }
def recovering : State := { sld with blk := { sld.blk with recover := [(7, 0)] } }
def recoveringOff : State := doms (fun d => if d = 7 then .still .off else .still .on) .awake recovering

theorem test_witness_DefectsAreRepaired :
    (withCore 0 (kDefect (.place lane))).Has 0 (kDefect (.place lane)) ∧ sld.aon.fuses.log.length < 32
    ∧ (kDefect (.place lane)).rep.defect = [(.place (.colLane 0 131 131 false), 0)] ∧ (kDefect (.place lane)).repairable = true
    ∧ (kDefect (.place lane)).rep.tapPending = false ∧ (kDefect (.place lane)).colSpare 0 = true
    ∧ 131 ∉ (kDefect (.place lane)).rep.colsEx.getD 0 []
    ∧ (kDefect (.place (.unit 15))).rep.defect = [(.place (.unit 15), 0)]
    ∧ (withCore 1 (kDefect (.place (.unit 15)))).Has 1 (kDefect (.place (.unit 15)))
    ∧ (withCore 1 (kDefect (.place (.unit 15)))).shaped = true ∧ (kDefect (.place (.unit 15))).rep.coreFenced = false
    ∧ (withCore 1 (kDefect (.place (.unit 15)))).domOn 1 = true ∧ (kDefect (.place (.unit 15))).plain.fills = []
    ∧ recoveringOff.Has 7 Core.reset ∧ recoveringOff.blk.recover.find? (·.1 == 7) = some (7, 0)
    ∧ recoveringOff.dom 7 = .still .off
    ∧ (∀ b : Bool, let s := if b then recoveringSplit else recovering;
      s.Has 7 Core.reset ∧ s.blk.recover.find? (·.1 == 7) = some (7, 0) ∧ s.domOn 7 = true ∧ s.cpUp s.leadHalf = true
      ∧ s.splitTenant s.leadHalf 0 [7] = b) := by
  unfold State.Has; decide +kernel

theorem test_witness_DefectsAreRepaired_engines :
    (let s := doms (fun d => if d = 0 then .still .retain else .still .on) .awake (withCore 0 (kDefect (.place lane)));
      s.Has 0 (kDefect (.place lane)) ∧ s.domOn 0 = false)
    ∧ (∀ x ∈ [([], true), (four, false), (four, true)], let k := kWorn x.1 [0, 1, 2] 0 (.place (.colLane 1 131 5 x.2));
      (withCore 0 k).Has 0 k ∧ (withCore 0 k).domOn 0 = true ∧ k.repairable = true ∧ k.rep.tapPending = false
      ∧ k.rep.defect = [(.place (.colLane 1 131 5 x.2), 0)] ∧ k.rowSpare = true ∧ 131 ∉ k.rep.rowsEx
      ∧ (x.2 = true ∨ k.colSpare 1 = false))
    ∧ (∀ x ∈ [(0, false), (1, false), (1, true)], let k := kWorn four four 0 (.place (.colLane x.1 131 131 x.2));
      (withCore 0 k).Has 0 k ∧ k.repairable = true ∧ isCol 0 = true ∧ k.rep.defect = [(.place (.colLane x.1 131 131 x.2), 0)]
      ∧ k.colSpare x.1 = false ∧ k.rowSpare = false ∧ k.rep.fenced = 0)
    ∧ (∀ e, e < 4 → let k := kWorn [] [] 0 (.place (.tree e));
      (withCore 1 k).Has 1 k ∧ k.repairable = true ∧ isCol 1 = false ∧ k.rep.fenced = 0)
    ∧ (∀ pl ∈ [Place.planeRow 519, .plainMul 3 519], ∀ n ∈ [0, 7], let k := kSteer n pl;
      (withCore 1 k).Has 1 k ∧ (withCore 1 k).domOn 1 = true ∧ k.repairable = true ∧ k.rep.tapPending = false
      ∧ k.rep.defect = [(.place pl, 0)] ∧ freeSpare 8 k.rep.planeSpare = some n)
    ∧ (∀ pl n l, (withCore 1 (kSteer n pl)).refillLost (kSteer n pl) l = false)
    ∧ (∀ x ∈ [(0, Place.colLane 1 0 0 false), (1, .tree 1)], let k := kWorn four four 1 (.place x.2);
      (withCore x.1 k).Has x.1 k ∧ k.rep.coreFenced = false ∧ (withCore x.1 k).shaped = true ∧ k.rep.fenced ≠ 0
      ∧ k.rep.fenced.toNat.testBit 1 = false ∧ k.colSpare 1 = false ∧ k.rowSpare = false) := by
  unfold State.Has; refine ⟨?_, ?_, ?_, ?_, ?_, fun pl n => refill_reads rfl rfl rfl, ?_⟩ <;> decide +kernel

/-- Core 1 whose fill buffer stages the page of PFILL 0, or of packet 0, for the first time or once more, well or not. -/
def kStage (pk again bad : Bool) : Core :=
  { kFill { fillAt 1 0 0 pk with restaged := again } bad with run := { RunSt.reset with state := .running } }
/-- Core 1 of whose page read a line has been retried n times, in half B of the fill buffer or in half A. -/
def kRetried (n : Nat) (b : Bool) : Core :=
  let k := kFill (fillAt 1 0 0 false) false
  let h : Staged := ⟨0, 0, 0, some [(0, 1)], false, [(511, n)]⟩
  { k with plain := { k.plain with halfA := if b then none else some h, halfB := if b then some h else none } }
def xOf (o : Owner) (d : Loc) (bad : Option Nat) : Transfer := { xStore with owner := o, dst := d, badAt := bad }
/-- Core 2 with transfer x of its own, or of packet 0, which moves. -/
def sending (x : Transfer) : State :=
  let s := addPkt (withCore 2 kSender) { pMove 0 0 1 with st := .running }
  { s with blk := { s.blk with xfers := [x] } }

theorem test_witness_UncorrectableDataEndsItsReceiver :
    (∀ o ∈ [Owner.instr 2 0 0, .packet 0], ∀ d ∈ [Loc.store 0 64, .fabric 64], ∀ b ∈ [none, some 0],
      let x := xOf o d b;
      (sending x).Has 2 kSender ∧ (sending x).xfer? 0 = some x ∧ x.sent.isSome = true ∧ 63 < x.length
      ∧ kSender.run.state = .running ∧ (sending x).pkt? 0 = some { pMove 0 0 1 with st := .running }
      ∧ (pMove 0 0 1).opcode = 0x30)
    ∧ (∀ ph ∈ [DrainPh.taking, .held], (withCore 0 (kFault [] ph)).Has 0 (kFault [] ph)
      ∧ (kFault [] ph).flight? 0 = some ⟨0, 0, .drain (dFault [] ph)⟩ ∧ (dFault [] ph).stuck = false)
    ∧ ((withCore 0 kPassing).Has 0 kPassing ∧ kPassing.flight? 0 = some ⟨0, 0, .colPass [0] [0] false 3 false⟩)
    ∧ (∀ ph ∈ [DrainPh.taking, .held], let d := { dFault [] ph with ti := tDrainF };
      let k : Core := { kFault [] ph with flight := [⟨0, 0, .drain d⟩] };
      (withCore 0 k).Has 0 k ∧ d.stuck = false ∧ d.ti.dKind = 0
      ∧ (k.crossed 0 ((withCore 0 k).readyDrain 0 d)).raced = false)
    ∧ ((withCore 1 (kReading false)).Has 1 (kReading false) ∧ (kReading false).rowSet? false 0 = some rset
      ∧ (kReading false).flight? 0 = some ⟨0, 0, .plainPass 0 false 1 0 1 false false⟩)
    ∧ ((withCore 0 kRefilling).Has 0 kRefilling ∧ kRefilling.flight? 0 = some ⟨0, 0, .refill 0 0 64 0 true⟩
      ∧ 0 < kRefilling.slots.length)
    ∧ (∀ n ∈ [3, 4], let k : Core := { kDone 0 with flight := [⟨0, 0, .drain { dDone 0 with tries := n }⟩] };
      (withCore 0 k).Has 0 k ∧ k.flight? 0 = some ⟨0, 0, .drain { dDone 0 with tries := n }⟩ ∧ (dDone 0).ph = .delivered
      ∧ (dDone 0).stuck = false ∧ (dDone 0).ti.stKind ≠ 1)
    ∧ (let k := kLost false;
      (withCore 1 k).Has 1 k ∧ recValid (Tab.get ((0, 0) : Word × Word) k.plain.recs 0).1 = true
      ∧ 5 ≤ Tab.get 0 k.plain.rereads (512 * 0 + 3))
    ∧ (∀ pk again bad : Bool, (withCore 1 (kStage pk again bad)).Has 1 (kStage pk again bad)
      ∧ (kStage pk again bad).plain.fills = [{ fillAt 1 0 0 pk with restaged := again }]
      ∧ (kStage pk again bad).plain.stagedFor { fillAt 1 0 0 pk with restaged := again } = some ⟨0, 0, 0, some [(0, 1)], bad, []⟩
      ∧ (withCore 1 (kStage pk again bad)).recurs (kStage pk again bad) (.fillHalf false) = false
      ∧ (kStage pk again bad).flight? 0 = some ⟨0, 0, .fill⟩)
    ∧ (((addPkt (withCore 1 (kStage true true true)) (ready 0x31 [])).dropFills fun y => decide (y.pk = some 0)).pkt? 0
        = some (ready 0x31 []))
    ∧ ((withCore 2 kSender).storeOn 2 kSender = true ∧ sld.Has 0 Core.reset ∧ sld.storeOn 0 Core.reset = true
      ∧ Core.reset.run.state ≠ .running)
    ∧ (∀ n ∈ [3, 4], let x := { xStore with retries := [(0, n)] };
      (sending x).xfer? 0 = some x ∧ 0 < x.load.lines ∧ Tab.get 0 x.retries 0 = n)
    ∧ (∀ n ∈ [3, 4], ∀ b : Bool, let k := kRetried n b;
      (withCore 1 k).Has 1 k ∧ (if b then k.plain.halfB else k.plain.halfA) = some ⟨0, 0, 0, some [(0, 1)], false, [(511, n)]⟩
      ∧ k.plain.fills.find? (fun y => y.id == 0) = some (fillAt 1 0 0 false) ∧ 511 < partBytes (fillAt 1 0 0 false).cls / 64
      ∧ Tab.get 0 [(511, n)] 511 = n)
    ∧ (∀ n ∈ [3, 4], let p : Packet := { ready 0x12 [2, 0] with retries := [(7, n)] };
      (hold p).pkt? 0 = some p ∧ p.moves = true ∧ Tab.get 0 p.retries 7 = n)
    ∧ (∀ n ∈ [3, 4], let s := replying HostPort.reset;
      ({ s with blk := { s.blk with replies := [⟨7, 1, 2, n⟩, ⟨7, 3, 4, 0⟩] } } : State).blk.replies.find? (fun y => y.port == 7)
        = some ⟨7, 1, 2, n⟩) := by
  unfold State.Has; constructorm* _ ∧ _ <;> decide +kernel

/-- A core whose line 5 waits for a remap, with n spare lines in use. -/
def kLine (n : Nat) : Core :=
  { Core.reset with rep := { Repair.reset with remap := [5], lineSpare := (List.range n).map fun i => (i + 6, i) } }
def kOften : Core := { Core.reset with rep := { Repair.reset with corrected := [(5, 0), (5, 0), (5, 0)] } }
/-- A core whose plane scrubber comes to slot 1023, which has a record and a word of odd parity, or none; the last detection was
there, or nowhere. -/
def kPlane (bad again : Bool) : Core :=
  { Core.reset with
    plain := { PlainSt.reset with recs := [(1023, (recOf, 0))], plane := if bad then [(1023 * 32768, 1)] else [] }
    rep := { Repair.reset with lastDet := if again then some (.planeRow 519, 0) else none }, scrubPlane := 1023 }

theorem test_witness_StoresAreScrubbedAndRemapped :
    ((withCore 0 kOften).Has 0 kOften ∧ (withCore 0 kOften).storeOn 0 kOften = true ∧ 5 * 64 < storeSize (isCol 0)
      ∧ storeSize (isCol 0) - 1 < storeSize (isCol 0)
      ∧ 3 ≤ (kOften.rep.corrected.filter fun e =>
          decide (e.1 = 5 * 64 / 64) && decide ((withCore 0 kOften).since e.2 ≤ (withCore 0 kOften).ticks 1000000)).length)
    ∧ (∀ n ∈ [0, 63, 64], (withCore 1 (kLine n)).Has 1 (kLine n) ∧ 5 ∈ (kLine n).rep.remap
    ∧ (withCore 1 (kLine n)).domOn 1 = true ∧ (kLine n).quiet = true
      ∧ (kLine n).rep.defect = [] ∧ (kLine n).rep.tapPending = false ∧ (kLine n).plain.fills = []
      ∧ (∀ q, q < n → ∃ e ∈ (kLine n).rep.lineSpare, e.2 = q))
    ∧ ((∀ e ∈ (kLine 63).rep.lineSpare, e.2 ≠ 63) ∧ 63 < spareLines 1 ∧ spareLines 1 = 64)
    ∧ (∀ bad again : Bool, let k := kPlane bad again;
      (withCore 1 k).Has 1 k ∧ isCol 1 = false ∧ (withCore 1 k).storeOn 1 k = true
      ∧ recValid (Tab.get ((0, 0) : Word × Word) k.plain.recs k.scrubPlane).1 = true ∧ k.plain.parityBad k.scrubPlane = bad
      ∧ (withCore 1 k).recurs k (.planeRow 519) = again ∧ freeSpare 8 k.rep.planeSpare ≠ none
      ∧ k.reading [k.scrubPlane] = false)
    ∧ (∀ (bad again : Bool) l, let k : Core := { kPlane bad again with scrubPlane := 0 };
      (withCore 1 (kPlane bad again)).refillLost k l = false)
    ∧ (let s := doms (fun d => if d = 1 then .still .retain else .still .on) .awake (withCore 1 (kLine 0));
      s.Has 1 (kLine 0) ∧ s.domOn 1 = false) := by
  unfold State.Has; refine ⟨?_, ?_, ?_, ?_, fun b a => refill_reads rfl rfl rfl, ?_⟩ <;> decide +kernel

/-- Port 4 of the block, with its outstanding lines and requests, its flagged lines and the transfers under way, one of packet 0
or of core 2, which transfers or drains. -/
def portly (wrq : List Lines) (rdq : List ReadReq) (hist : List (Nat × Nat)) (k : Core) (xs : List Transfer) : State :=
  let s := addPkt (withCore 2 k) { pMove 1 0 1 with st := .running }
  { s with blk := { s.blk with xfers := xs, nextX := 1, ports := s.blk.ports.set 4 ⟨wrq, rdq, hist⟩ } }
def request (n : Nat) : ReadReq := ⟨255, 0, some 2, 0, 0, n⟩
def lineOf (n : Nat) : Lines := ⟨0, some 2, n, 1⟩
/-- A transfer of a store's 64 bytes to fabric address 0x4000, the first line of port 4. -/
def xFab (o : Owner) : Transfer :=
  { xStore with owner := o, dst := .fabric 0x4000, load := .copy (.store 2 0) 0 1 64 0 0 0 false 0 }
def kDrains : Core := { kSender with flight := [⟨0, 0, .drain (dFault [] .computed)⟩] }

theorem test_witness_MemoryPortsAnswer :
    (4 < sld.cfg.nPorts ∧ 4 ∈ sld.aon.listA ∧ sld.aon.fuses.log.length < 32 ∧ sld.hp[7]? = some HostPort.reset
      ∧ sld.domOn (sld.domGroup (4 / 5)) = true ∧ 4 ∉ sld.aon.withdrawn ∧ addrOf sld.aon.listA 4 (64 * 0) = some 0x4000)
    ∧ (∀ e : Bool, ∀ n ∈ [1, 64], let s := portly [] [request n] [] kSender [];
      s.shaped = true ∧ s.portUp 4 = true ∧ (s.port 4).rdq.find? (·.tag == 255) = some (request n)
      ∧ [(⟨0, e⟩ : ReadLine)].length ≤ (request n).left ∧ (s.port 4).flagHist.length + 1 < 16)
    ∧ (let s := portly [] [request 1] ((List.range 15).map fun i => (i + 1, 0)) kSender [];
      s.shaped = true ∧ s.portUp 4 = true ∧ (s.port 4).rdq.find? (·.tag == 255) = some (request 1)
      ∧ 15 ≤ ((s.port 4).flagHist.filter fun e => decide (s.since e.2 ≤ s.ticks 1000000) && e.1 != 0).length)
    ∧ (∀ o ∈ [Owner.instr 2 0 0, .packet 0], ∀ k ∈ [kSender, kDrains], ∀ rest ∈ [[], [lineOf 0x101]],
      let s := portly (lineOf 0x100 :: rest) [] [] k [xFab o];
      s.shaped = true ∧ (s.port 4).wrq = lineOf 0x100 :: rest ∧ s.xfer? 0 = some (xFab o) ∧ (xFab o).dst = .fabric 0x4000
      ∧ (∀ l ∈ (s.port 4).wrq.take 2, s.xfer? l.owner = some (xFab o))
      ∧ (xFab o).blocked = false ∧ (xFab o).sent.isSome = true ∧ s.intest = false ∧ s.blk.writeQ = []
      ∧ (∀ p, p < 4 → (s.port p).wrq = []) ∧ s.blk.ports.length = 5
      ∧ s.Has 2 k ∧ s.pkt? 0 = some { pMove 1 0 1 with st := .running } ∧ (pMove 1 0 1).opcode = 0x30
      ∧ (((xFab o).bytes s)[0]?.map fun (b : Nat × Byte) => (0x4000 + b.1) / 64) = some 0x100)
    ∧ ((sld.port 4).wrq = [] ∧ sld.intest = false ∧ sld.shaped = true)
    ∧ ((wrapped .intest).intest = true ∧ 4 < (wrapped .intest).cfg.nPorts) := by
  unfold State.Has; refine ⟨?_, ?_, ?_, ?_, ?_, ?_⟩ <;> decide +kernel

/-- Two lines of one transfer that complete together both stand. -/
theorem test_lines_complete_together :
    let x := { xFab (.packet 0) with load := .copy (.store 2 0) 0 1 128 0 0 0 false 0, data := List.replicate 128 7 }
    let u := (portly [lineOf 0x100, lineOf 0x101] [] [] kSender [x]).writesDone 4 2
    u.mem.rd 0x4000 = 7 ∧ u.mem.rd 0x407F = 7 ∧ u.blk.xfers = [] := by
  refine ⟨?_, ?_, ?_⟩ <;> decide +kernel

/-! ### Witnesses: the two halves -/

/-- The sealed two-half block at always-on time t with messages on the Saddle link. -/
def link (t : Nat) (ms : List (Half × Msg)) : State :=
  let s := atTime t two
  { s with blk := { s.blk with saddle := ms } }
def unsealedLink : State :=
  let s := link 0 [(.east, .heartbeat .lead 1)]
  { s with aon := { s.aon with sealed := false } }
def eastOff : State :=
  let s := link 0 []
  { s with pins := { s.pins with cpeLow := true }, aon := { s.aon with roleE := .off } }

def westOff : State :=
  let s := link 0 []
  { s with pins := { s.pins with cpwLow := true }, aon := { s.aon with roleW := .off } }

theorem test_witness_HeartbeatsKeepTheLead :
    (two.cfg.hasEast = true ∧ two.cpUp .west = true ∧ two.cpUp .east = true
      ∧ (link 10 []).past ((link 10 []).cp .west).sentAt 1 = true
      ∧ (link 10 []).role .west ≠ .off ∧ unsealedLink.aon.sealed = false)
    ∧ (let s := { link 10 [] with aon := { (link 10 []).aon with roleE := .off } };
      s.aon.sealed = true ∧ s.role .east = .off ∧ s.cpUp .east = true)
    ∧ (unsealedLink.blk.saddle = [(.east, .heartbeat .lead 1)] ∧ unsealedLink.aon.sealed = false ∧ unsealedLink.cpUp .east = true)
    ∧ (let s := link 0 [(.west, .heartbeat .follower 1)];
      s.blk.saddle = [(.west, .heartbeat .follower 1)] ∧ s.aon.sealed = true ∧ (s.cp .west).silent = false ∧ s.role .west = .lead
      ∧ Role.follower.claims = false ∧ s.cpUp .west = true)
    ∧ (let s := { westOff with aon := { westOff.aon with roleE := .claiming } };
      s.cpUp .east = true ∧ s.cpUp .west = false ∧ s.role .west = .off ∧ s.role .east = .claiming ∧ s.adopted .east = false
      ∧ s.shaped = true ∧ s.blk.pkts = [])
    ∧ (let s := westOff.setCore 0 (running tAwait);
      s.core? 0 = some (running tAwait) ∧ s.cfg.halfOf 0 = Half.east.other ∧ (running tAwait).run.state = .running)
    ∧ (let s := link 160 [];
      (s.cp .east).silent = false ∧ s.past (s.cp .east).heardAt 16 = true ∧ s.role .east = .follower ∧ s.cpUp .west = true)
    ∧ (eastOff.aon.sealed = true ∧ eastOff.cpUp .west = true ∧ eastOff.cpUp .east = false ∧ eastOff.role .east = .off
      ∧ eastOff.adopted .west = false ∧ eastOff.shaped = true ∧ eastOff.blk.pkts = [])
    ∧ (westOff.cpUp .east = true ∧ westOff.cpUp .west = false ∧ westOff.role .west = .off ∧ westOff.adopted .east = false
      ∧ westOff.role .east ≠ .lead ∧ westOff.role .east ≠ .claiming ∧ westOff.shaped = true ∧ westOff.blk.pkts = []) := by
  refine ⟨?_, ?_, ?_, ?_, ?_, ?_, ?_, ?_, ?_⟩ <;> decide +kernel

/-- The roles and epochs of the two halves. -/
def roles (w e : Role) (nw ne : Nat) (s : State) : State :=
  { s with aon := { s.aon with roleW := w, roleE := e, epochW := BitVec.ofNat 16 nw, epochE := BitVec.ofNat 16 ne } }
/-- Packets at a port of East, one that has not started and one that runs, and a reply there. -/
def eastern (s : State) : State :=
  let s := addPkt (addPkt s { pk 0 [at64 [(56, 1), (48, 2)], 0] .ready with port := 7, half := .east })
    { pk 1 [at64 [(56, 0x21), (48, 2)], 1] .running with port := 7, half := .east }
  let s := { s with blk := { s.blk with replies := [⟨7, 1, 2, 0⟩] } }
  s.modHp 7 fun x => { x with cpHalf := .east, credits := 13 }
def settledOf (s : State) : Bool :=
  decide (s.blk.pkts.map (·.id)).Nodup && s.blk.pkts.all fun p => !p.asked && p.reply.isNone && !s.sealSilent p

theorem test_witness_HeartbeatsKeepTheLead_claims :
    (let s := roles .claiming .follower 2 1 (link 0 [(.west, .heartbeat .follower 2)]);
      s.blk.saddle = [(.west, .heartbeat .follower 2)] ∧ s.aon.sealed = true ∧ s.role .west = .claiming ∧ s.epoch .west = 2
      ∧ s.role .east = .follower ∧ s.cpUp .west = true)
    ∧ (∀ x ∈ [(2, 2), (2, 3), (3, 2)],
      let s := eastern (roles .lead .claiming x.1 x.2 (link 0 [(.east, .heartbeat .lead (BitVec.ofNat 16 x.1))]));
      s.blk.saddle = [(.east, .heartbeat .lead (BitVec.ofNat 16 x.1))] ∧ s.aon.sealed = true ∧ (s.role .east).claims = true
      ∧ Role.lead.claims = true ∧ (s.role Half.east.other).claims = true ∧ s.cpUp .east = true ∧ settledOf s = true
      ∧ (s.epoch .east).toNat = x.2 ∧ (s.epoch .west).toNat = x.1)
    ∧ (∀ r ∈ [Role.follower, .off], let s := roles .lead r 1 1 (link 160 []);
      s.past (s.cp .east).heardAt 16 = true ∧ s.aon.sealed = true ∧ s.role .east = r ∧ s.cpOff .west = false ∧ s.cpUp .east = true)
    ∧ (let s := atTime 160 westOff;
      s.past (s.cp .east).heardAt 16 = true ∧ s.role .east = .follower ∧ s.cpOff .west = true ∧ s.cpUp .east = true)
    ∧ (let s := link 160 [];
      s.past (s.cp .west).heardAt 16 = true ∧ s.role .west = .lead ∧ (s.cp .west).silent = false ∧ s.cpUp .west = true)
    ∧ (let s := eastern eastOff;
      s.aon.sealed = true ∧ s.cpOff .east = true ∧ s.adopted .west = false ∧ s.shaped = true ∧ settledOf s = true
      ∧ (s.blk.pkts.map (·.unstarted)) = [true, false] ∧ (s.hp.getD 7 .reset).cpHalf ≠ .west ∧ s.cpUp .west = true) := by
  refine ⟨?_, ?_, ?_, ?_, ?_, ?_⟩ <;> decide +kernel

def pOrder : Packet := { ready 0x10 [1] with ordered := true }
def pAsk : Packet := { ready 0x40 [5] with half := .east, asked := true }
def pMirror : Packet := { pAsk with st := .mirror 1, reply := some (0, 0) }
def msg (h : Half) (m : Msg) (p : Packet) : State := addPkt (link 0 [(h, m)]) p
/-- A packet of East, which follows, ready or done with its cores. -/
def asks_ (op : Nat) (args : List Word) (done : Option (List Nat)) : Packet :=
  match done with
  | none => { ready op args with half := .east }
  | some cs => { acted op args cs with half := .east }
/-- The lead as it takes the request of packet p, with tenant 0's step open under id 5 or closed, poisoned or not, and the ports of
memory withdrawn or not. -/
def requested (p : Packet) (stepping poison lost : Bool) : State :=
  let s := msg .west (.request 0) p
  { s with
    aon := { s.aon with withdrawn := if lost then List.range 10 else [] }
    blk := { s.blk with west := { s.blk.west with ts := { s.blk.west.ts with
      tens := { Tenant.reset with stepOpen := stepping, stepId := 5, poison := poison } :: List.replicate 15 .reset } } } }
/-- The lead deems East silent, which serves cores of tenant 0. -/
def split : State :=
  let s := msg .west (.request 0) pAsk
  { s with blk := { s.blk with west := { s.blk.west with silent := true } } }

theorem test_witness_SaddleMessagesTakeEffect_requests :
    (∀ x ∈ [(0x40, [5]), (0x41, [5]), (0x52, [64])], let p := asks_ x.1 x.2 none; let s := addPkt two p;
      s.Executes p x.1 ∧ s.role p.half = .follower ∧ s.tsHeld p = false ∧ p.asked = false)
    ∧ (∀ x ∈ [(0x10, [0x8000]), (0x11, [0x8000]), (0x7F, [])], let p := asks_ x.1 x.2 (some [15]); let s := addPkt two p;
      s.Acted p x.1 ∧ s.role p.half = .follower ∧ s.tsHeld p = false ∧ p.asked = false ∧ p.reported = true ∧ s.mergedFor p = true)
    ∧ (∀ x ∈ [(0x40, [5]), (0x41, [5]), (0x41, [6]), (0x52, [64])], ∀ st po l : Bool,
      let p := { asks_ x.1 x.2 none with asked := true, st := .running }; let s := requested p st po l;
      s.blk.saddle = [(.west, .request 0)] ∧ s.pkt? 0 = some p ∧ s.role .west = .lead ∧ s.role .east = .follower
      ∧ s.splitTenant .west p.tenant p.acted = false ∧ p.asked = true ∧ p.st = .running
      ∧ p.tenant < s.auth.tens.length ∧ (∀ c ∈ p.acted, c < s.auth.bind.length) ∧ p.opcode = x.1 ∧ p.lost = false
      ∧ (s.auth.ten 0).stepOpen = st ∧ (s.auth.ten 0).poison = po)
    ∧ (∀ l : Bool, let p := { asks_ 0x52 [64] none with asked := true }; let s := requested p false false l;
      s.lostRange (s.packetAddr p (fld (p.arg 1) 47 0) 64) 64 = l)
    ∧ (∀ x ∈ [(0x10, [0x8000]), (0x11, [0x8000]), (0x7F, [])],
      let p := { asks_ x.1 x.2 (some [15]) with asked := true }; let s := requested p false false false;
      s.pkt? 0 = some p ∧ s.splitTenant .west p.tenant p.acted = false ∧ p.asked = true ∧ p.st = .running
      ∧ (∀ c ∈ p.acted, c < s.auth.bind.length) ∧ p.opcode = x.1)
    ∧ (∀ a : Bool, let p := { pAsk with asked := a, st := if a then .ready else .running }; let s := requested p false false false;
      s.pkt? 0 = some p ∧ s.splitTenant .west p.tenant p.acted = false ∧ (p.asked = false ∨ p.st ≠ .running))
    ∧ (split.pkt? 0 = some pAsk ∧ split.role .west = .lead ∧ split.role .east = .follower
    ∧ split.splitTenant .west pAsk.tenant pAsk.acted = true) := by
  unfold State.Executes State.Acted; refine ⟨?_, ?_, ?_, ?_, ?_, ?_, ?_⟩ <;> decide +kernel

/-- East has come back and hears the lead. -/
def back : State :=
  let s := link 0 []
  { s with aon := { s.aon with roleE := .off }, blk := { s.blk with east := { s.blk.east with heard := some (.lead, 1), current := false } } }

theorem test_witness_SaddleMessagesTakeEffect :
    ((msg .east (.order 0) pOrder).blk.saddle = [(.east, .order 0)] ∧ (msg .east (.order 0) pOrder).pkt? 0 = some pOrder
      ∧ (msg .west (.orderDone 0) pOrder).pkt? 0 = some pOrder ∧ (msg .west (.orderDone 0) pOrder).cpUp .west = true
      ∧ (msg .east (.order 0) pOrder).cpUp .east = true)
    ∧ (let s := msg .west (.request 0) pAsk;
      s.pkt? 0 = some pAsk ∧ s.role .west = .lead ∧ s.role .east = .follower ∧ pAsk.opcode = 0x40
      ∧ pAsk.tenant < s.auth.tens.length ∧ (s.auth.ten pAsk.tenant).stepOpen = false)
    ∧ (let s := msg .east (.answer 0) pMirror;
      s.pkt? 0 = some pMirror ∧ pMirror.st = .mirror 1 ∧ pMirror.reply = some (0, 0) ∧ pMirror.asked = true
      ∧ (s.cp .east).ts.gen.toNat < (1 : BitVec 32).toNat)
    ∧ (let s := msg .east (.answer 0) { pMirror with st := .mirror 0 };
      s.pkt? 0 = some { pMirror with st := .mirror 0 } ∧ (0 : BitVec 32).toNat ≤ (s.cp .east).ts.gen.toNat)
    ∧ (∀ b : Bool, let q := { acted 0x11 [0x8000] [15] with half := .east, asked := true, st := .mirror 0, reply := some (0, 0) };
      let s := if b then msg .east (.answer 0) q
        else { msg .east (.answer 0) q with
          blk := { (msg .east (.answer 0) q).blk with saddle := [(.east, .answer 0), (.west, .merge (mergeOf 0))] } };
      s.pkt? 0 = some q ∧ coreOrdered q.opcode = true ∧ s.merged q.tenant = b ∧ s.follower? = true
      ∧ (0 : BitVec 32).toNat ≤ (s.cp .east).ts.gen.toNat)
    ∧ ((link 0 [(.east, .mirror)]).role .east = .follower ∧ (link 0 [(.east, .mirror)]).cpUp .east = true
      ∧ (link 0 [(.east, .mirror)]).blk.pkts = [])
    ∧ (let x : Packet := { pMirror with st := .mirror 0, asked := false };
      (msg .east .mirror x).blk.saddle = [(.east, .mirror)] ∧ (msg .east .mirror x).blk.pkts = [x] ∧ x.reply = some (0, 0)
      ∧ (0 : BitVec 32).toNat ≤ ((msg .east .mirror x).cp .west).ts.gen.toNat)
    ∧ (back.aon.sealed = true ∧ back.role .east = .off ∧ (back.cp .east).silent = false ∧ back.role .west = .lead
      ∧ (back.cp .east).heard = some (.lead, 1) ∧ back.cpUp .east = true)
    ∧ (two.hp[7]? = some HostPort.reset ∧ two.serves (two.homeOf 7) = true ∧ two.Has 15 Core.reset
      ∧ two.serves (two.cfg.halfOf 15) = true ∧ two.busyCore 15 = false) := by
  unfold State.Has; refine ⟨?_, ?_, ?_, ?_, ?_, ?_, ?_, ?_, ?_⟩ <;> decide +kernel

/-! ### Ill-formed commands, one for each check of WellFormed -/

theorem test_wf_units :
    ∀ i ∈ [Instr.await 8, .opass 1, .dpass 0, .pfill 9, .spill 10, .packetDispatch .east, .heartbeatSend .west, .hpSubmit 8 0 0xFF,
        .registerWrite (some 8) 0x30 0 0xFF, .mpFatal 5, .mpWriteCompletion 5 1, .domainTransition 12, .memSleepAck 1 true,
        .uncorrectableData (.drain 8 0 0 none), .uncorrectableData (.pass 8 0 none),
        .uncorrectableData (.program 8 0), .uncorrectableData (.fill 2), .portTakeback 8],
      i.wf .mbf16 = false := by decide +kernel

theorem test_wf_operands :
    ∀ i ∈ [Instr.derivation 0 2, .passFault 0 0 (.colLane 2 0 0 false), .passFault 0 0 (.colLane 0 132 0 false),
        .passFault 0 0 (.colLane 0 0 132 false), .epilogueFault 0 0 (.basin 2 0 0), .epilogueFault 0 0 (.basin 0 2 0),
        .epilogueFault 0 0 (.basin 0 0 65536), .passFault 1 0 (.plainMul 4 0), .passFault 1 0 (.plainMul 0 520),
        .passFault 1 0 (.planeRow 520), .passFault 1 0 (.tree 4), .epilogueFault 0 0 (.unit 16),
        .passFault 0 0 (.line 0x60000), .passFault 0 0 (.image 9408), .uncorrectableData (.pass 0 0 (some 0x300000))],
      i.wf .mbf16 = false := by decide +kernel

theorem test_wf_ranges :
    ∀ i ∈ [Instr.planeParityFault 1 0 (some (2 ^ 28)) 0, .planeParityFault 1 0 none 520, .planeScrub 1 ⟨none, 520⟩,
        .correctedWriteback 0 (.store 0x1800000), .correctedWriteback 0 (.image 9408), .storeLineRemap 0 (2 ^ 26),
        .mpReadResponse 0 ⟨256, 0, [⟨0, false⟩]⟩, .mpReadResponse 0 ⟨0, 64, [⟨0, false⟩]⟩,
        .mpReadResponse 5 ⟨0, 0, [⟨0, false⟩]⟩, .wrapperShift (.reserved 6), .sensorSample (List.replicate 63 0),
        .sensorSample (List.replicate 64 1024), .measurementRound [⟨12, 0, 1, 1, 0⟩], .measurementRound [⟨0, 16, 1, 1, 0⟩],
        .measurementRound [⟨0, 0, 1, 0, 0⟩], .measurementRound [⟨0, 0, 1, 1, 33⟩], .tapChange 12], i.wf .mbf16 = false := by decide +kernel

/-! ### Worked examples of the spec -/

/-- Table — Worked conversions from binary32 (R62): source, target, rounding, overflow code 0, flush_long, result, flags. -/
theorem test_conversions_from_binary32 :
    ∀ x ∈ ([(0x3F800000, .df8, .rne, true, false, 0x40, {}), (0x3F880000, .df8, .rne, true, false, 0x40, { inexact := true }),
        (0x477FF000, .b16, .rne, true, false, 0x7BFF, { overflow := true, inexact := true }),
        (0x477FF000, .b16, .rne, false, false, 0x7C00, { overflow := true, inexact := true }),
        (0x477FF000, .b16, .rz, true, false, 0x7BFF, { inexact := true }), (0x33800000, .b16, .rne, true, false, 1, {}),
        (0x33800000, .b16, .rne, true, true, 0, { underflow := true, inexact := true }),
        (0x42FF0000, .int8, .rne, true, false, 0x7F, { overflow := true, inexact := true }),
        (0x42FF0000, .int8, .rne, false, false, 0x80, { overflow := true, inexact := true }),
        (0xC0600000, .int8, .rne, true, false, 0xFC, { inexact := true }),
        (0xC0600000, .int8, .rz, true, false, 0xFD, { inexact := true }),
        (0xBF800000, .uint8, .rne, true, false, 0, { overflow := true }),
        (0xBF800000, .uint8, .rne, false, false, 0xFF, { overflow := true }),
        (0x7FC00000, .int8, .rne, true, false, 0, { invalid := true })] :
          List (Nat × Fmt × Rnd × Bool × Bool × Nat × Flags)),
      convert x.2.1 x.2.2.1 x.2.2.2.1 x.2.2.2.2.1 0 (decodeElem .b32 false 0 x.1) = (x.2.2.2.2.2.1, x.2.2.2.2.2.2) := by
  decide +kernel

/-- Table — Worked conversions from other sources (R62): source format, block byte, source, target, result, flags. -/
theorem test_conversions_from_other_sources :
    ∀ x ∈ ([(.b64, 0, 0x3FF0000010000000, .b32, 0x3F800000, { inexact := true }),
        (.int32, 0, 0x01000001, .b32, 0x4B800000, { inexact := true }), (.int32, 0, 0x12C, .int8, 0x7F, { overflow := true }),
        (.df8, 0, 0xC4, .b32, 0xBFC00000, {}), (.df16, 0, 0x4092, .b32, 0x40490000, {}), (.e4m3, 0, 0x04, .b32, 0, {}),
        (.e5m2, 0, 0x7D, .b32, 0x7FC00000, { invalid := true }), (.dx16, 0x80, 0x4000, .b32, 0x3F800000, {}),
        (.dx16, 0x80, 0x8000, .b32, 0x7FC00000, {}), (.dq4, 0x83, 0x9, .b32, 0xC0E00000, {})] :
          List (Fmt × Nat × Nat × Fmt × Nat × Flags)),
      convert x.2.2.2.1 .rne true false 0 (decodeElem x.1 false x.2.1 x.2.2.1) = (x.2.2.2.2.1, x.2.2.2.2.2) := by
  decide +kernel

/-- The stochastic example of R61: 1.03125 to DF8 with two draws. -/
theorem test_stochastic :
    (convert .df8 .stoch true false 0xB7A2 (decodeElem .b32 false 0 0x3F840000)).1 = 0x40
    ∧ (convert .df8 .stoch true false 0xC3D1 (decodeElem .b32 false 0 0x3F840000)).1 = 0x41 := by decide +kernel

/-- The SET_SEED example of R57 to R59: two draws of core 0's generator. -/
theorem test_generator :
    genDraw 0x8000000000000000 = (0x8000, 0x8000) ∧ genDraw 0x8000 = (0x80000000, 0) := by decide +kernel

/-- The stage words of the example of R150. -/
theorem test_stage_words :
    (let l := stagesOf [0x0100000000000000, 0x0800000000000000, 0x3E000000, 0x1018000000100000, 0, 0x2001000000000000, 0, 0, 0];
      l.map (·.code) = [cSCALE, cBIASROW, cACT] ∧ l.map (·.addr) = [0, 0x100000, 0] ∧ l.map (·.sel) = [0, 0, 1]
      ∧ l.map (·.fmt) = [.df8, .df16, .df8] ∧ l.map (·.c0) = [0x3E000000, 0, 0]) := by decide +kernel

/-- The OPASS of the example of R207, built field by field in the spec. -/
theorem test_opass_words :
    (let t : TI := ⟨0x0143800000008000, 0x3300000002000200, 0x8040201008040000, 0x0200010000300000⟩;
      t.op? = some .opass ∧ t.waitEn = true ∧ t.waitFord = 3 ∧ t.consume = true ∧ t.engSel = 2 ∧ t.oAdd = false ∧ t.fA = .df16
      ∧ t.kExt = 512 ∧ t.oKLim = 512 ∧ [t.mExt, t.oMLim, t.nExt, t.oNLim, t.nExt1, t.oNLim1] = [256, 256, 256, 256, 256, 256]
      ∧ [t.aAddr, t.bAddr, t.b1Addr] = [0x40000, 0x100000, 0x180000]) := by decide +kernel

/-- By hand from R72 and R76: -3 at place 0 of the image of A times 5 at place 0 of that of engine 1's B adds 2^32 - 15. -/
theorem test_opass_int8_product :
    (let t : TI := { tInt with w3 := at64 [(26, 1)] };
      match ({ running t with store := [(0, 0xFD), (64, 5)] } : Core).enginePass 0 t (fun _ => false) 1 with
      | .ready k i => k.slot i
      | _ => .reset).acc = [0xFFFFFFF1] := by decide +kernel

/-- The SELECT_BUCKET packet of the example of R257. -/
theorem test_packet_words :
    (let p := pk 0 [0x2204300102040042, 3, 0x120000000, 0x514] .waiting;
      p.opcode = 0x22 ∧ p.length = 4 ∧ p.tenant = 3 ∧ p.sequence = 0x0102 ∧ p.opt = true ∧ p.coresMask = 3
      ∧ bitOf p.hdr 6 = true ∧ fld p.hdr 5 0 = 2 ∧ withPort 2 p.hdr = 0x2204340102040042) := by decide +kernel

/-- Tenant 3 of the alias example of R289: two windows of 1 GiB. -/
def imagePolicy : List Word :=
  List.replicate 32 0 ++ [at64 [(63, 1), (56, 2)], at64 [(32, 0x40000), (0, 0x100000)], at64 [(32, 0x40000), (0, 0x140000)]]
    ++ List.replicate 78 0
def imaged : State := { sld with aon := { sld.aon with policy := imagePolicy } }

/-- The alias example of R289: the live and the inactive alias under L = 1, and after a commit. -/
theorem test_aliases :
    imaged.translate 3 true 0 0xC00001234540 64 = some 0x141234540
    ∧ imaged.translate 3 true 0 0xE00001234540 64 = some 0x101234540
    ∧ imaged.translate 3 false 0 0xC00001234540 64 = some 0x101234540 := by decide +kernel

/-- The hash example of R234, the record of the example of R343 and the MARGIN_STATUS of the example of R329. -/
theorem test_registers :
    portOf (List.range 20) 0x12345678 = (12, 0xE90678) ∧ repairRecord 2 4 1 77 0 = 0x2110000004D000E5
    ∧ (let s : State := { up with
        aon := { up.aon with power := { up.aon.power with floor := 12 } }
        blk := { up.blk with margin := ⟨18, 0x25, 6, 3, false, false, true, 2, 0⟩ } };
      s.marginWord = 0x00122518C8C02000) := by decide +kernel

/-- CRC-32 of the nine bytes of the string 123456789, the usual check value of IEEE 802.3 (R184). -/
theorem test_crc : crc32 [0x31, 0x32, 0x33, 0x34, 0x35, 0x36, 0x37, 0x38, 0x39] = 0xCBF43926 := by decide +kernel

/-! ### Encodings with no bits -/

/-- No row of the table has bits, so no word spells a command. -/
theorem test_no_words : decodeTableWord 8 0xFF = none ∧ State.reset.withFetchWord 8 0xFF = State.reset := by decide +kernel

end Sys2Proof.Tests
end

/-! SUPPORT and settlement. The numbering of the cores (R16): the built cores alternate between Col and Plain, and their counts
and their halves are those that CAPS0 reads. -/

namespace Sys2Proof.Proofs

open Sys2Proof Sys2Proof.Machine

/-! ### Col and Plain cores among the first numbers -/

theorem isCol_iff (c : Nat) : isCol c = true ↔ c % 2 = 0 := by simp [isCol]

@[simp] theorem isCol_two_mul (n : Nat) : isCol (2 * n) = true := by simp [isCol]

@[simp] theorem isCol_two_mul_add_one (n : Nat) : isCol (2 * n + 1) = false := by simp [isCol]

/-- Each pair 2n and 2n + 1 adds one Col core. -/
theorem length_filter_isCol_range (n : Nat) : ((List.range (2 * n)).filter isCol).length = n := by
  induction n with
  | zero => rfl
  | succ n ih => simp [Nat.mul_succ, List.range_succ, ih]

/-- The Plain cores are those that the Col cores leave. -/
theorem length_filter_not_isCol_range (n : Nat) : ((List.range (2 * n)).filter fun c => !isCol c).length = n := by
  have hsplit := List.length_eq_length_filter_add (l := List.range (2 * n)) isCol
  rw [length_filter_isCol_range, List.length_range] at hsplit
  omega

/-! ### What CAPS0 reads of a configuration -/

theorem nCores_eq_two_mul_colCores (k : Configuration) : k.nCores = 2 * k.colCores := (Nat.two_mul _).symm

/-- The field col_cores of CAPS0. -/
theorem fld_caps0_colCores (k : Configuration) : fld k.caps0 7 0 = k.colCores := by cases k <;> rfl

/-- The field plain_cores of CAPS0. -/
theorem fld_caps0_plainCores (k : Configuration) : fld k.caps0 15 8 = k.plainCores := by cases k <;> rfl

/-- The field cmd_procs of CAPS0. -/
theorem fld_caps0_cmdProcs (k : Configuration) : fld k.caps0 25 24 = if k.hasEast then 2 else 1 := by cases k <;> rfl

/-! ### The half of a core -/

theorem halfOf_of_hasEast {k : Configuration} (h : k.hasEast = true) (c : Nat) :
    k.halfOf c = if c < k.nCores / 2 then .west else .east := by
  by_cases hc : c < k.nCores / 2
  · simp [Configuration.halfOf, hc]
  · simp [Configuration.halfOf, h, hc, Nat.le_of_not_lt hc]

theorem halfOf_of_not_hasEast {k : Configuration} (h : k.hasEast = false) (c : Nat) : k.halfOf c = .west := by
  simp [Configuration.halfOf, h]

/-- Settles O7: the core count is twice the Col count, so the pairs of `length_filter_isCol_range` give both counts of CAPS0, and
cmd_procs says whether East is built. -/
theorem coresAreNumbered : Obligations.CoresAreNumbered := by
  intro k
  refine ⟨?count, ?col, ?plain, isCol_iff, fun htwo => ?twoHalves, fun hone => ?westOnly⟩
  case count => rw [fld_caps0_colCores, fld_caps0_plainCores, Configuration.nCores]
  case col => rw [nCores_eq_two_mul_colCores, length_filter_isCol_range, fld_caps0_colCores]
  case plain =>
    rw [nCores_eq_two_mul_colCores, length_filter_not_isCol_range, fld_caps0_plainCores, Configuration.plainCores]
  case twoHalves =>
    have heast : k.hasEast = true := by simpa [fld_caps0_cmdProcs] using htwo
    exact fun c _ => halfOf_of_hasEast heast c
  case westOnly =>
    have hwest : k.hasEast = false := by simpa [fld_caps0_cmdProcs] using hone
    exact halfOf_of_not_hasEast hwest

end Sys2Proof.Proofs

/-! SUPPORT and settlement. The codes of DF8 (R35): what each code reads as, and which codes a conversion writes. -/

namespace Sys2Proof.Proofs

open Sys2Proof Sys2Proof.Machine

/-! ### Magnitudes and their leading bits -/

/-- A magnitude with the smaller leading exponent, floor (log2 (m * 2^e)), is the smaller one. -/
theorem magLt_of_log2_add_lt {m₁ m₂ : Nat} {e₁ e₂ : Int} (hm₂ : m₂ ≠ 0)
    (hlt : (m₁.log2 : Int) + e₁ < m₂.log2 + e₂) : magLt m₁ e₁ m₂ e₂ = true := by
  have hm₁ : m₁ < 2 ^ (m₁.log2 + 1) := Nat.lt_log2_self
  have hlead : 2 ^ m₂.log2 ≤ m₂ := Nat.log2_self_le hm₂
  by_cases he : e₁ ≤ e₂
  · have hexp : m₁.log2 + 1 ≤ m₂.log2 + (e₂ - e₁).toNat := by omega
    have hshift : m₁ < m₂ * 2 ^ (e₂ - e₁).toNat := calc
      m₁ < 2 ^ (m₁.log2 + 1) := hm₁
      _ ≤ 2 ^ (m₂.log2 + (e₂ - e₁).toNat) := Nat.pow_le_pow_right (by decide) hexp
      _ = 2 ^ m₂.log2 * 2 ^ (e₂ - e₁).toNat := Nat.pow_add ..
      _ ≤ m₂ * 2 ^ (e₂ - e₁).toNat := Nat.mul_le_mul_right _ hlead
    simpa [magLt, he, Nat.shiftLeft_eq] using hshift
  · have hexp : m₁.log2 + 1 + (e₁ - e₂).toNat ≤ m₂.log2 := by omega
    have hshift : m₁ * 2 ^ (e₁ - e₂).toNat < m₂ := calc
      m₁ * 2 ^ (e₁ - e₂).toNat < 2 ^ (m₁.log2 + 1) * 2 ^ (e₁ - e₂).toNat :=
        Nat.mul_lt_mul_of_pos_right hm₁ (Nat.two_pow_pos _)
      _ = 2 ^ (m₁.log2 + 1 + (e₁ - e₂).toNat) := (Nat.pow_add ..).symm
      _ ≤ 2 ^ m₂.log2 := Nat.pow_le_pow_right (by decide) hexp
      _ ≤ m₂ := hlead
    simpa [magLt, he, Nat.shiftLeft_eq] using hshift

/-- The significand of p + 1 bits that `encodeFloat` keeps of n: its leading one at bit p. -/
def leadingSig (p n : Nat) : Nat := if p ≤ n.log2 then n >>> (n.log2 - p) else n <<< (p - n.log2)

theorem leadingSig_bounds (p : Nat) {n : Nat} (hn : n ≠ 0) : 2 ^ p ≤ leadingSig p n ∧ leadingSig p n < 2 ^ (p + 1) := by
  have hlead : 2 ^ n.log2 ≤ n := Nat.log2_self_le hn
  have hlt : n < 2 ^ (n.log2 + 1) := Nat.lt_log2_self
  unfold leadingSig
  split
  next hp =>
    rw [Nat.shiftRight_eq_div_pow, Nat.le_div_iff_mul_le (Nat.two_pow_pos _), Nat.div_lt_iff_lt_mul (Nat.two_pow_pos _),
      ← Nat.pow_add, ← Nat.pow_add, show p + (n.log2 - p) = n.log2 by omega,
      show p + 1 + (n.log2 - p) = n.log2 + 1 by omega]
    exact ⟨hlead, hlt⟩
  next hp =>
    have hlow : 2 ^ n.log2 * 2 ^ (p - n.log2) = 2 ^ p := by rw [← Nat.pow_add]; congr 1; omega
    rw [Nat.shiftLeft_eq, ← hlow, Nat.pow_succ, ← hlow, Nat.mul_right_comm, ← Nat.pow_succ]
    exact ⟨Nat.mul_le_mul_right _ hlead, Nat.mul_lt_mul_of_pos_right hlt (Nat.two_pow_pos _)⟩

/-! ### Reading a DF8 code -/

/-- The sign, exponent and fraction of a DF8 code under R35. -/
theorem decodeElem_df8 (fl : Bool) (blk c : Nat) :
    decodeElem .df8 fl blk c =
      if c % 256 = 0x80 then .nan false
      else if c / 8 % 16 = 0 then .zero false
      else .fin (c.testBit 7) (8 + c % 8) ((c / 8 % 16 : Nat) - 8 - 3) := by
  simp [decodeElem, Fmt.float?, decodeFloat, specDf8, Nat.shiftRight_eq_div_pow]

/-- The sign bit of a code of eight bits. -/
theorem testBit_seven_of_lt {c : Nat} (hc : c < 256) : c.testBit 7 = decide (128 ≤ c) := by
  simp [Nat.testBit_eq_decide_div_mod_eq]; omega

/-! ### Writing a DF8 code -/

/-- The codes that R35 lets the fabric write: zero, poison and the normal codes. -/
abbrev Df8Canonical (c : Nat) : Prop := c < 256 ∧ (c = 0 ∨ c = 0x80 ∨ 1 ≤ c / 8 % 16)

theorem encodeFloat_df8_zero (neg : Bool) (q : Int) : encodeFloat specDf8 neg 0 q = 0 := rfl

/-- A magnitude not below 2^-7 is written with the fields of the bit map: sign, biased exponent and fraction. -/
theorem encodeFloat_df8_normal (neg : Bool) {n : Nat} {q : Int} (hn : n ≠ 0) (hmin : -7 ≤ (n.log2 : Int) + q) :
    encodeFloat specDf8 neg n q
      = (if neg then 128 else 0) + 8 * ((n.log2 : Int) + q + 8).toNat + (leadingSig 3 n - 8) := by
  have hsub : ((n.log2 : Int) - 3).toNat = n.log2 - 3 := by omega
  simp [encodeFloat, specDf8, hn, hmin, leadingSig, hsub, Nat.shiftLeft_eq, Nat.mul_comm]

theorem df8Canonical_encodeFloat {neg : Bool} {n : Nat} {q : Int} (hn : n ≠ 0) (hmin : -7 ≤ (n.log2 : Int) + q)
    (hmax : (n.log2 : Int) + q ≤ 7) : Df8Canonical (encodeFloat specDf8 neg n q) := by
  obtain ⟨hlow, hhigh⟩ : 8 ≤ leadingSig 3 n ∧ leadingSig 3 n < 16 := leadingSig_bounds 3 hn
  have hexp : 1 ≤ ((n.log2 : Int) + q + 8).toNat ∧ ((n.log2 : Int) + q + 8).toNat ≤ 15 := by omega
  rw [encodeFloat_df8_normal neg hn hmin]
  split <;> omega

theorem df8Canonical_zero : Df8Canonical 0 := by decide

theorem df8Canonical_nanCode : Df8Canonical specDf8.nanCode := by decide

theorem df8Canonical_codeMax (neg : Bool) : Df8Canonical (codeMax specDf8 neg) := by cases neg <;> decide

/-- What saturates and what poisons on overflow (R50) is canonical alike. -/
theorem df8Canonical_overflow (sat neg : Bool) :
    Df8Canonical (if sat then codeMax specDf8 neg else specDf8.nanCode) := by
  cases sat
  · exact df8Canonical_nanCode
  · exact df8Canonical_codeMax neg

/-- What R50 writes in DF8 for a finite value that is rounded to n * 2^q: it tests overflow, then the flush. -/
def df8Code (sat neg : Bool) (n : Nat) (q : Int) : Nat :=
  if magLt 15 4 n q then (if sat then codeMax specDf8 neg else specDf8.nanCode)
  else if magLt n q 1 (-7) then 0
  else encodeFloat specDf8 neg n q

theorem convertFloat_df8_fin (rnd : Rnd) (sat fl : Bool) (draw : Nat) (neg : Bool) (m : Nat) (e : Int) :
    (convertFloat specDf8 rnd sat fl draw (.fin neg m e)).1
      = df8Code sat neg (roundQuanta m e (m.log2 + e - 4 + 1) rnd draw) (m.log2 + e - 4 + 1) := by
  simp only [convertFloat, df8Code, apply_ite Prod.fst]
  rfl

/-- Whatever the rounding, what the overflow test and the flush test let pass has its leading exponent from -7 to 7. -/
theorem df8Canonical_df8Code (sat neg : Bool) (n : Nat) (q : Int) : Df8Canonical (df8Code sat neg n q) := by
  unfold df8Code
  split
  next => exact df8Canonical_overflow sat neg
  next hover =>
    split
    next => exact df8Canonical_zero
    next hflush =>
      by_cases hn : n = 0
      · rw [hn, encodeFloat_df8_zero]
        exact df8Canonical_zero
      · have hmax : (n.log2 : Int) + q ≤ 7 := by
          by_contra hgt
          exact hover (magLt_of_log2_add_lt hn (show (3 : Int) + 4 < n.log2 + q by omega))
        have hmin : -7 ≤ (n.log2 : Int) + q := by
          by_contra hlt
          exact hflush (magLt_of_log2_add_lt one_ne_zero (show (n.log2 : Int) + q < 0 + -7 by omega))
        exact df8Canonical_encodeFloat hn hmin hmax

theorem df8Canonical_convert (rnd : Rnd) (sat fl : Bool) (draw : Nat) (v : FV) :
    Df8Canonical (convert .df8 rnd sat fl draw v).1 := by
  change Df8Canonical (convertFloat specDf8 rnd sat fl draw v).1
  cases v with
  | nan sig => exact df8Canonical_nanCode
  | inf neg => exact df8Canonical_overflow sat neg
  | zero neg => exact df8Canonical_zero
  | fin neg m e =>
    rw [convertFloat_df8_fin]
    exact df8Canonical_df8Code ..

/-- Settles O8: the decoding is R35's by the fields of the code, and a conversion writes canonical codes
alone (`df8Canonical_convert`). -/
theorem df8CodesDecode : Obligations.Df8CodesDecode := by
  refine ⟨fun c blk fl hc => ⟨fun hnormal => ?normal, fun hnan => ?poison, fun hzero hnotNan => ?zero⟩,
    fun rnd sat fl draw v _ => df8Canonical_convert rnd sat fl draw v, rfl, rfl⟩
  case normal =>
    rw [decodeElem_df8, if_neg (by omega), if_neg (by omega), testBit_seven_of_lt hc]
  case poison => rw [decodeElem_df8, if_pos (by omega)]
  case zero => rw [decodeElem_df8, if_neg (by omega), if_pos hzero]

end Sys2Proof.Proofs
